-- ==== Sys2Proof/Word.lean ====
section
/-! DEFINITION. The two fixed widths of the data path: bytes and words (00_scope R7, R9). -/

namespace Sys2Proof

/-- `BYTE`: 8 bits (R7). -/
abbrev Byte := BitVec 8

/-- `WORD` and `ADDR_WIDTH`: 16 bits (R7). -/
abbrev Word := BitVec 16

end Sys2Proof
end

