-- ==== Sys2Proof/Machine/Bits.lean ====
section
/-! DEFINITION. Bit fields and byte order: the helpers every other file uses to take values apart and to put them
together (R8: bit 0 is the least significant; R83: words are little-endian). -/

namespace Sys2Proof

/-- `w[7:0]`. -/
def loByte (w : Word) : Byte := w.extractLsb' 0 8

/-- `w[15:8]`. -/
def hiByte (w : Word) : Byte := w.extractLsb' 8 8

/-- `hi : lo`, the word whose low byte is `lo` (R8, R83). -/
def joinBytes (lo hi : Byte) : Word := hi ++ lo

/-- The byte whose only set bit is bit `n`. -/
def bitMask (n : Fin 8) : Byte := 1#8 <<< n.val

/-- `b[n] <- 1`. -/
def setBit (b : Byte) (n : Fin 8) : Byte := b ||| bitMask n

/-- `b[n] <- 0`. -/
def clearBit (b : Byte) (n : Fin 8) : Byte := b &&& ~~~ bitMask n

/-- `b[n] <- ~b[n]`. -/
def flipBit (b : Byte) (n : Fin 8) : Byte := b ^^^ bitMask n

/-- `zext_16` of one flag, shifted to bit `k`. -/
def flagAt (f : Bool) (k : Nat) : Word := (BitVec.ofBool f).setWidth 16 <<< k

/-- A register file bit `b` is taken from `new` where `mask` is 1 and from `old` where it is 0 (R97, R288). -/
def mergeBits (mask new old : Byte) : Byte := (old &&& ~~~ mask) ||| (new &&& mask)

end Sys2Proof
end

