-- ==== Sys2Proof/Config.lean ====
section
/-! DEFINITION. What an implementation fixes: the constants VS gives, the parameters of R7 as one plain record
(`Params`, carried in the state, so that a claim about every state is a claim about every choice of them), and the free
values (`opaque`). -/

namespace Sys2Proof

/-- `DEVICE_CONFIG` (R7): which external devices are wired to the block.  VS names three and leaves the list open. -/
inductive DeviceConfig where
  | pioSwitchesLeds
  | pioPrinter
  | handshakePrinter
  /-- The configurations behind the "..." of VS §6. -/
  | other (n : Nat)
  deriving DecidableEq, Repr

/-- The direction argument of `IoInvalid` (20_memory R98). -/
inductive IoDir where
  | read
  | write
  deriving DecidableEq, Repr

/-- The parameters of 00_scope R7 whose value a model takes as an argument, with the spec's defaults
(92_eei_decisions, "Open parameters").  `startIp`, `spReset` and `imrReset` act only at the load (R50, R300). -/
structure Params where
  /-- `START_IP` (D13). -/
  startIp : Word := 0x2000#16
  /-- `SP_RESET` (D13). -/
  spReset : Word := 0x4000#16
  /-- `IMR_RESET` (D18). -/
  imrReset : Byte := 0x00#8
  /-- `PIC_BASE` (D17): the PIC's twelve ports start here. -/
  picBase : Byte := 0x10#8
  /-- `TIMER_BASE` (D17). -/
  timerBase : Byte := 0x20#8
  /-- `PIO_BASE` (D17). -/
  pioBase : Byte := 0x30#8
  /-- `TIMER_LINE` (D14). -/
  timerLine : Fin 8 := 1
  /-- `HS_LINE` (D15). -/
  hsLine : Fin 8 := 2
  /-- `RESERVED_IDS` (D20). -/
  reservedIds : List Byte := [0#8, 1#8, 2#8, 3#8, 4#8, 5#8, 6#8, 7#8]
  /-- `DEVICE_CONFIG`, given by the load (D43).  DESIGN CHOICE (log 6): the spec gives no default. -/
  deviceConfig : DeviceConfig := .pioSwitchesLeds
  /-- The graph of `IoInvalid(DEVICE_CONFIG, port, dir)`: the triples at which it is true (R98, D33). -/
  ioInvalid : List (DeviceConfig × Byte × IoDir) := []
  deriving DecidableEq, Repr

namespace Config

/-- `MEM_TOP` + 1: the number of bytes of RAM, 0000h..3FFFh (R7, R42). -/
def memSize : Nat := 0x4000

/-- `EOI_COMMAND` (R7). -/
def eoiCommand : Byte := 0x20#8

/-- `F10_LINE` (R7, R286). -/
def f10Line : Fin 8 := 0

/-- `HS_BASE` (R7). -/
def hsBase : Byte := 0x40#8

/-- FREE VALUE (log 4): the value of an internal register at an instruction boundary, which R41 leaves unspecified.
The argument is `State.draws`, so every draw is a fresh value.  It has no body: no proof can know it. -/
opaque freeInternal : Nat → Word

end Config
end Sys2Proof
end

