-- ==== Sys2Proof/Syntax.lean ====
section
/-! DEFINITION. The instructions, whole: `Instr` has one constructor for each of the 113 rows of
spec/opcode_table.json, in the table's order.  An operand pair carries its size once (`RegPair`, `RegImm`), so operands of
two sizes cannot be written down (30_encoding R131, R154: `size-mismatch`), and neither can a register index the spec
reserves (R126). -/

namespace Sys2Proof

/-- The size bit `w`: byte = 0, word = 1 (R155). -/
inductive Size where
  | byte
  | word
  deriving DecidableEq, Repr

/-- The byte registers in the order of their index (R126, w = 0). -/
inductive Reg8 where
  | al | bl | cl | dl | ah | bh | ch | dh
  deriving DecidableEq, Repr

/-- The word registers in the order of their index (R126, w = 1). -/
inductive Reg16 where
  | ax | bx | cx | dx | sp
  deriving DecidableEq, Repr

/-- A register operand of either size. -/
inductive Reg where
  | byte (r : Reg8)
  | word (r : Reg16)
  deriving DecidableEq, Repr

/-- Two register operands of one size: destination, then source. -/
inductive RegPair where
  | byte (d s : Reg8)
  | word (d s : Reg16)
  deriving DecidableEq, Repr

/-- An immediate of either size (R132). -/
inductive Imm where
  | byte (v : Byte)
  | word (v : Word)
  deriving DecidableEq, Repr

/-- A destination register and an immediate of its size. -/
inductive RegImm where
  | byte (d : Reg8) (v : Byte)
  | word (d : Reg16) (v : Word)
  deriving DecidableEq, Repr

/-- The Binary class's operation field `oooo` (R128). -/
inductive BinOp where
  | mov | add | adc | sub | sbb | cmp | and | or | xor
  deriving DecidableEq, Repr

/-- The Binary class's eight operand forms, in the order of R131's table. -/
inductive BinForm where
  | regReg (p : RegPair)
  | regBx (d : Reg)
  | regMem (d : Reg) (addr : Word)
  | bxReg (r : Reg)
  | memReg (addr : Word) (r : Reg)
  | regImm (q : RegImm)
  | bxImm (v : Imm)
  | memImm (addr : Word) (v : Imm)
  deriving DecidableEq, Repr

/-- The Unary class's operation field `oo` (R133). -/
inductive UnOp where
  | inc | dec | neg | not
  deriving DecidableEq, Repr

/-- The Unary class's operand selector `ssss` (R134). -/
inductive UnForm where
  | reg (r : Reg)
  | bx (w : Size)
  | mem (w : Size) (addr : Word)
  deriving DecidableEq, Repr

/-- One constructor per row of spec/opcode_table.json. -/
inductive Instr where
  /-- `MOV reg, reg` (R211). -/
  | movRegReg (p : RegPair)
  /-- `MOV reg, [BX]` (R211). -/
  | movRegBx (d : Reg)
  /-- `MOV reg, [addr]` (R211). -/
  | movRegMem (d : Reg) (addr : Word)
  /-- `MOV [BX], reg` (R211). -/
  | movBxReg (r : Reg)
  /-- `MOV [addr], reg` (R211). -/
  | movMemReg (addr : Word) (r : Reg)
  /-- `MOV reg, imm` (R211). -/
  | movRegImm (q : RegImm)
  /-- `MOV [BX], imm` (R211). -/
  | movBxImm (v : Imm)
  /-- `MOV [addr], imm` (R211). -/
  | movMemImm (addr : Word) (v : Imm)
  /-- `ADD reg, reg` (R174). -/
  | addRegReg (p : RegPair)
  /-- `ADD reg, [BX]` (R174). -/
  | addRegBx (d : Reg)
  /-- `ADD reg, [addr]` (R174). -/
  | addRegMem (d : Reg) (addr : Word)
  /-- `ADD [BX], reg` (R174). -/
  | addBxReg (r : Reg)
  /-- `ADD [addr], reg` (R174). -/
  | addMemReg (addr : Word) (r : Reg)
  /-- `ADD reg, imm` (R174). -/
  | addRegImm (q : RegImm)
  /-- `ADD [BX], imm` (R174). -/
  | addBxImm (v : Imm)
  /-- `ADD [addr], imm` (R174). -/
  | addMemImm (addr : Word) (v : Imm)
  /-- `ADC reg, reg` (R175). -/
  | adcRegReg (p : RegPair)
  /-- `ADC reg, [BX]` (R175). -/
  | adcRegBx (d : Reg)
  /-- `ADC reg, [addr]` (R175). -/
  | adcRegMem (d : Reg) (addr : Word)
  /-- `ADC [BX], reg` (R175). -/
  | adcBxReg (r : Reg)
  /-- `ADC [addr], reg` (R175). -/
  | adcMemReg (addr : Word) (r : Reg)
  /-- `ADC reg, imm` (R175). -/
  | adcRegImm (q : RegImm)
  /-- `ADC [BX], imm` (R175). -/
  | adcBxImm (v : Imm)
  /-- `ADC [addr], imm` (R175). -/
  | adcMemImm (addr : Word) (v : Imm)
  /-- `SUB reg, reg` (R176). -/
  | subRegReg (p : RegPair)
  /-- `SUB reg, [BX]` (R176). -/
  | subRegBx (d : Reg)
  /-- `SUB reg, [addr]` (R176). -/
  | subRegMem (d : Reg) (addr : Word)
  /-- `SUB [BX], reg` (R176). -/
  | subBxReg (r : Reg)
  /-- `SUB [addr], reg` (R176). -/
  | subMemReg (addr : Word) (r : Reg)
  /-- `SUB reg, imm` (R176). -/
  | subRegImm (q : RegImm)
  /-- `SUB [BX], imm` (R176). -/
  | subBxImm (v : Imm)
  /-- `SUB [addr], imm` (R176). -/
  | subMemImm (addr : Word) (v : Imm)
  /-- `SBB reg, reg` (R177). -/
  | sbbRegReg (p : RegPair)
  /-- `SBB reg, [BX]` (R177). -/
  | sbbRegBx (d : Reg)
  /-- `SBB reg, [addr]` (R177). -/
  | sbbRegMem (d : Reg) (addr : Word)
  /-- `SBB [BX], reg` (R177). -/
  | sbbBxReg (r : Reg)
  /-- `SBB [addr], reg` (R177). -/
  | sbbMemReg (addr : Word) (r : Reg)
  /-- `SBB reg, imm` (R177). -/
  | sbbRegImm (q : RegImm)
  /-- `SBB [BX], imm` (R177). -/
  | sbbBxImm (v : Imm)
  /-- `SBB [addr], imm` (R177). -/
  | sbbMemImm (addr : Word) (v : Imm)
  /-- `CMP reg, reg` (R178). -/
  | cmpRegReg (p : RegPair)
  /-- `CMP reg, [BX]` (R178). -/
  | cmpRegBx (d : Reg)
  /-- `CMP reg, [addr]` (R178). -/
  | cmpRegMem (d : Reg) (addr : Word)
  /-- `CMP [BX], reg` (R178). -/
  | cmpBxReg (r : Reg)
  /-- `CMP [addr], reg` (R178). -/
  | cmpMemReg (addr : Word) (r : Reg)
  /-- `CMP reg, imm` (R178). -/
  | cmpRegImm (q : RegImm)
  /-- `CMP [BX], imm` (R178). -/
  | cmpBxImm (v : Imm)
  /-- `CMP [addr], imm` (R178). -/
  | cmpMemImm (addr : Word) (v : Imm)
  /-- `AND reg, reg` (R201). -/
  | andRegReg (p : RegPair)
  /-- `AND reg, [BX]` (R201). -/
  | andRegBx (d : Reg)
  /-- `AND reg, [addr]` (R201). -/
  | andRegMem (d : Reg) (addr : Word)
  /-- `AND [BX], reg` (R201). -/
  | andBxReg (r : Reg)
  /-- `AND [addr], reg` (R201). -/
  | andMemReg (addr : Word) (r : Reg)
  /-- `AND reg, imm` (R201). -/
  | andRegImm (q : RegImm)
  /-- `AND [BX], imm` (R201). -/
  | andBxImm (v : Imm)
  /-- `AND [addr], imm` (R201). -/
  | andMemImm (addr : Word) (v : Imm)
  /-- `OR reg, reg` (R202). -/
  | orRegReg (p : RegPair)
  /-- `OR reg, [BX]` (R202). -/
  | orRegBx (d : Reg)
  /-- `OR reg, [addr]` (R202). -/
  | orRegMem (d : Reg) (addr : Word)
  /-- `OR [BX], reg` (R202). -/
  | orBxReg (r : Reg)
  /-- `OR [addr], reg` (R202). -/
  | orMemReg (addr : Word) (r : Reg)
  /-- `OR reg, imm` (R202). -/
  | orRegImm (q : RegImm)
  /-- `OR [BX], imm` (R202). -/
  | orBxImm (v : Imm)
  /-- `OR [addr], imm` (R202). -/
  | orMemImm (addr : Word) (v : Imm)
  /-- `XOR reg, reg` (R203). -/
  | xorRegReg (p : RegPair)
  /-- `XOR reg, [BX]` (R203). -/
  | xorRegBx (d : Reg)
  /-- `XOR reg, [addr]` (R203). -/
  | xorRegMem (d : Reg) (addr : Word)
  /-- `XOR [BX], reg` (R203). -/
  | xorBxReg (r : Reg)
  /-- `XOR [addr], reg` (R203). -/
  | xorMemReg (addr : Word) (r : Reg)
  /-- `XOR reg, imm` (R203). -/
  | xorRegImm (q : RegImm)
  /-- `XOR [BX], imm` (R203). -/
  | xorBxImm (v : Imm)
  /-- `XOR [addr], imm` (R203). -/
  | xorMemImm (addr : Word) (v : Imm)
  /-- `INC reg` (R180). -/
  | incReg (r : Reg)
  /-- `INC [BX]` (R180). -/
  | incBx (w : Size)
  /-- `INC [addr]` (R180). -/
  | incMem (w : Size) (addr : Word)
  /-- `DEC reg` (R181). -/
  | decReg (r : Reg)
  /-- `DEC [BX]` (R181). -/
  | decBx (w : Size)
  /-- `DEC [addr]` (R181). -/
  | decMem (w : Size) (addr : Word)
  /-- `NEG reg` (R179). -/
  | negReg (r : Reg)
  /-- `NEG [BX]` (R179). -/
  | negBx (w : Size)
  /-- `NEG [addr]` (R179). -/
  | negMem (w : Size) (addr : Word)
  /-- `NOT reg` (R204). -/
  | notReg (r : Reg)
  /-- `NOT [BX]` (R204). -/
  | notBx (w : Size)
  /-- `NOT [addr]` (R204). -/
  | notMem (w : Size) (addr : Word)
  /-- `NOP` (R256). -/
  | nop
  /-- `HLT` (R255). -/
  | hlt
  /-- `CLI` (R253). -/
  | cli
  /-- `STI` (R254). -/
  | sti
  /-- `PUSHF` (R219). -/
  | pushf
  /-- `POPF` (R220). -/
  | popf
  /-- `RET` (R241). -/
  | ret
  /-- `IRET` (R242). -/
  | iret
  /-- `PUSH r16` (R217). -/
  | push (r : Reg16)
  /-- `POP r16` (R218). -/
  | pop (r : Reg16)
  /-- `JMP label` (R231). -/
  | jmp (addr : Word)
  /-- `CALL label` (R240). -/
  | call (addr : Word)
  /-- `JZ label` (R232). -/
  | jz (addr : Word)
  /-- `JNZ label` (R233). -/
  | jnz (addr : Word)
  /-- `JC label` (R234). -/
  | jc (addr : Word)
  /-- `JNC label` (R235). -/
  | jnc (addr : Word)
  /-- `JS label` (R236). -/
  | js (addr : Word)
  /-- `JNS label` (R237). -/
  | jns (addr : Word)
  /-- `JO label` (R238). -/
  | jo (addr : Word)
  /-- `JNO label` (R239). -/
  | jno (addr : Word)
  /-- `INT n`, n not in 0, 3, 6, 7 (R246). -/
  | intN (n : Byte)
  /-- `INT 0` (R247). -/
  | int0
  /-- `INT 3` (R248). -/
  | int3
  /-- `INT 6` (R249). -/
  | int6
  /-- `INT 7` (R250). -/
  | int7
  /-- `IN AL|AX, port8` (R227). -/
  | inPort (w : Size) (port : Byte)
  /-- `IN AL|AX, DX` (R227). -/
  | inDx (w : Size)
  /-- `OUT port8, AL|AX` (R228). -/
  | outPort (w : Size) (port : Byte)
  /-- `OUT DX, AL|AX` (R228). -/
  | outDx (w : Size)
  deriving DecidableEq, Repr

/-- The instruction of a Binary operation and an operand form (R144). -/
def Instr.ofBin : BinOp → BinForm → Instr
  | .mov, .regReg p => .movRegReg p
  | .mov, .regBx d => .movRegBx d
  | .mov, .regMem d addr => .movRegMem d addr
  | .mov, .bxReg r => .movBxReg r
  | .mov, .memReg addr r => .movMemReg addr r
  | .mov, .regImm q => .movRegImm q
  | .mov, .bxImm v => .movBxImm v
  | .mov, .memImm addr v => .movMemImm addr v
  | .add, .regReg p => .addRegReg p
  | .add, .regBx d => .addRegBx d
  | .add, .regMem d addr => .addRegMem d addr
  | .add, .bxReg r => .addBxReg r
  | .add, .memReg addr r => .addMemReg addr r
  | .add, .regImm q => .addRegImm q
  | .add, .bxImm v => .addBxImm v
  | .add, .memImm addr v => .addMemImm addr v
  | .adc, .regReg p => .adcRegReg p
  | .adc, .regBx d => .adcRegBx d
  | .adc, .regMem d addr => .adcRegMem d addr
  | .adc, .bxReg r => .adcBxReg r
  | .adc, .memReg addr r => .adcMemReg addr r
  | .adc, .regImm q => .adcRegImm q
  | .adc, .bxImm v => .adcBxImm v
  | .adc, .memImm addr v => .adcMemImm addr v
  | .sub, .regReg p => .subRegReg p
  | .sub, .regBx d => .subRegBx d
  | .sub, .regMem d addr => .subRegMem d addr
  | .sub, .bxReg r => .subBxReg r
  | .sub, .memReg addr r => .subMemReg addr r
  | .sub, .regImm q => .subRegImm q
  | .sub, .bxImm v => .subBxImm v
  | .sub, .memImm addr v => .subMemImm addr v
  | .sbb, .regReg p => .sbbRegReg p
  | .sbb, .regBx d => .sbbRegBx d
  | .sbb, .regMem d addr => .sbbRegMem d addr
  | .sbb, .bxReg r => .sbbBxReg r
  | .sbb, .memReg addr r => .sbbMemReg addr r
  | .sbb, .regImm q => .sbbRegImm q
  | .sbb, .bxImm v => .sbbBxImm v
  | .sbb, .memImm addr v => .sbbMemImm addr v
  | .cmp, .regReg p => .cmpRegReg p
  | .cmp, .regBx d => .cmpRegBx d
  | .cmp, .regMem d addr => .cmpRegMem d addr
  | .cmp, .bxReg r => .cmpBxReg r
  | .cmp, .memReg addr r => .cmpMemReg addr r
  | .cmp, .regImm q => .cmpRegImm q
  | .cmp, .bxImm v => .cmpBxImm v
  | .cmp, .memImm addr v => .cmpMemImm addr v
  | .and, .regReg p => .andRegReg p
  | .and, .regBx d => .andRegBx d
  | .and, .regMem d addr => .andRegMem d addr
  | .and, .bxReg r => .andBxReg r
  | .and, .memReg addr r => .andMemReg addr r
  | .and, .regImm q => .andRegImm q
  | .and, .bxImm v => .andBxImm v
  | .and, .memImm addr v => .andMemImm addr v
  | .or, .regReg p => .orRegReg p
  | .or, .regBx d => .orRegBx d
  | .or, .regMem d addr => .orRegMem d addr
  | .or, .bxReg r => .orBxReg r
  | .or, .memReg addr r => .orMemReg addr r
  | .or, .regImm q => .orRegImm q
  | .or, .bxImm v => .orBxImm v
  | .or, .memImm addr v => .orMemImm addr v
  | .xor, .regReg p => .xorRegReg p
  | .xor, .regBx d => .xorRegBx d
  | .xor, .regMem d addr => .xorRegMem d addr
  | .xor, .bxReg r => .xorBxReg r
  | .xor, .memReg addr r => .xorMemReg addr r
  | .xor, .regImm q => .xorRegImm q
  | .xor, .bxImm v => .xorBxImm v
  | .xor, .memImm addr v => .xorMemImm addr v

/-- The instruction of a Unary operation and its operand (R144). -/
def Instr.ofUn : UnOp → UnForm → Instr
  | .inc, .reg r => .incReg r
  | .inc, .bx w => .incBx w
  | .inc, .mem w addr => .incMem w addr
  | .dec, .reg r => .decReg r
  | .dec, .bx w => .decBx w
  | .dec, .mem w addr => .decMem w addr
  | .neg, .reg r => .negReg r
  | .neg, .bx w => .negBx w
  | .neg, .mem w addr => .negMem w addr
  | .not, .reg r => .notReg r
  | .not, .bx w => .notBx w
  | .not, .mem w addr => .notMem w addr

end Sys2Proof
end

