-- ==== Sys2Proof/Machine/State.lean ====
section
/-! DEFINITION. The state of the block (10_state, 60_exceptions), the reasons a step can stop, and the state after
reset.  Everything is plain data. -/

namespace Sys2Proof.Machine

/-- The five flags of R36, in the order CF ZF SF OF IF. -/
structure Flags where
  /-- `CF`. -/
  carry : Bool
  /-- `ZF`. -/
  zero : Bool
  /-- `SF`. -/
  sign : Bool
  /-- `OF`. -/
  overflow : Bool
  /-- `IF`. -/
  interrupt : Bool
  deriving DecidableEq, Repr

/-- The internal registers of R41 (`id` and `ri` have no stated role).  No rule reads them across a boundary. -/
structure Internal where
  ir : Word
  mar : Word
  mbr : Word
  id : Word
  ri : Word
  left : Word
  right : Word
  result : Word
  deriving DecidableEq, Repr

/-- The PIC's registers (R43). `vec` holds `INT0`..`INT7`. -/
structure Pic where
  imr : Byte
  irr : Byte
  isr : Byte
  eoi : Byte
  vec : Vector Byte 8
  deriving DecidableEq, Repr

/-- The PIO's registers (R45). -/
structure Pio where
  pa : Byte
  pb : Byte
  ca : Byte
  cb : Byte
  deriving DecidableEq, Repr

/-- The Timer's registers (R46). -/
structure Timer where
  cont : Byte
  comp : Byte
  deriving DecidableEq, Repr

/-- The Handshake's registers `DATA` and `STATE` (R47): in `state`, bit 0 is BUSY, bit 1 STROBE, bit 7 IE. -/
structure Handshake where
  data : Byte
  state : Byte
  deriving DecidableEq, Repr

/-- The run status of R48.  `faulted(code)` is not a value here: a run that faults ends in `Host.Outcome.fault` with the
code, and no state after it is observed (R262; log 9). -/
inductive RunStatus where
  | running
  /-- An `INT 6` waits for the host's byte (R249). -/
  | awaitingInput
  /-- After `HLT` or `INT 0`: final. -/
  | halted
  deriving DecidableEq, Repr

/-- The host events that act at an instruction boundary (R291).  `keyboard.feed` is not among them: it only answers a
waiting `INT 6`, and its bytes are `State.keyboard`. -/
inductive HostEvent where
  /-- `clock.tick()` (R284). -/
  | clockTick
  /-- `f10.press()` (R286). -/
  | f10Press
  /-- `switches.toggle(i)` (R288). -/
  | switchToggle (i : Fin 8)
  /-- An external device drives the inputs of `PA` (R288). -/
  | pioDriveA (ext : Byte)
  /-- An external device drives the inputs of `PB` (R288). -/
  | pioDriveB (ext : Byte)
  /-- The printer is done (R285). -/
  | printerDone
  /-- `request(n)` (R281). -/
  | request (n : Fin 8)
  /-- `cancel(n)` (R283). -/
  | cancel (n : Fin 8)
  deriving DecidableEq, Repr

/-- Memory `M` as the list of the bytes that are not 00h, by rising address (R42; `Memory.wf` in Machine/Memory.lean). -/
abbrev Memory := List Host.Cell

/-- The whole state. -/
structure State where
  /-- The word registers of R30; `al`..`dh` are their halves (R31). -/
  ax : Word
  bx : Word
  cx : Word
  dx : Word
  sp : Word
  /-- `IP` (R34). -/
  ip : Word
  flags : Flags
  internal : Internal
  mem : Memory
  pic : Pic
  pio : Pio
  timer : Timer
  hs : Handshake
  /-- The switch device's state `SW` (R288; log 13). -/
  switches : Byte
  status : RunStatus
  /-- The console output sequence, oldest byte first (R48, R290). -/
  console : List Byte
  /-- How many breakpoint observations `INT 3` has recorded (R12, R248; log 12). -/
  breakpoints : Nat
  /-- The MODEL's own field: the host events still to come, one list for each boundary, next boundary first (R291; log 3). -/
  hostEvents : List (List HostEvent)
  /-- The MODEL's own field: the bytes with which the host answers console reads, oldest first (R287;
  log 3). -/
  keyboard : List Byte
  /-- The parameters of R7; no step changes them (log 8). -/
  params : Params
  /-- The MODEL's own field: how many free values have been drawn (Config.freeInternal; log 4). -/
  draws : Nat
  deriving DecidableEq, Repr

/-- The runtime errors of R260: the spec raises these and no others, and every one is fatal (R261).  Each carries the
console output at that moment, which the host has seen (R250, R290), and nothing else of the state (R262).  All six are
safe: the spec itself ends the run there. -/
inductive Fault where
  /-- `memory-out-of-range`: an access touches a byte outside 0000h..3FFFh.  Raised by the instruction fetch, a memory
  operand, a stack push, the store of INT 6 and the loads of INT 7 (R84).  Safe: the spec ends the run. -/
  | memoryOutOfRange (console : List Byte)
  /-- `stack-overflow`: a push with `SP < 2`.  Raised by PUSH, PUSHF, CALL, INT and the hardware dispatch (R215).
  Safe: the spec ends the run. -/
  | stackOverflow (console : List Byte)
  /-- `stack-underflow`: a pop with `SP > 3FFEh`.  Raised by POP, POPF, RET and IRET (R216).  Safe: the spec ends the
  run. -/
  | stackUnderflow (console : List Byte)
  /-- `reserved-interrupt`: the PIC selects a line whose vector ID is in `RESERVED_IDS` (R278).  Raised at a boundary.
  Safe: the spec ends the run. -/
  | reservedInterrupt (console : List Byte)
  /-- `io-invalid-device-state`: `IoInvalid` holds for the access of an IN or OUT (R98).  Safe: the spec ends the
  run. -/
  | ioInvalidDeviceState (console : List Byte)
  /-- `invalid-instruction`: the bytes at `IP` are no instruction (R141).  Raised by the decode.  Safe: the spec ends
  the run. -/
  | invalidInstruction (console : List Byte)
  deriving DecidableEq, Repr

/-- Why the model gives a step no meaning. -/
inductive Refusal where
  /-- Raised by an arm of `exec` for an instruction without a meaning; no arm does so here.  Safe. -/
  | notModelled (mnemonic : String)
  /-- Raised at a boundary whose host events hold a printer-done while `STATE.BUSY = 0`: the host is assumed never to
  signal it (R285, R291, I18; log 7).  Safe: no claim about a next state holds of it. -/
  | printerDoneWhileIdle
  /-- Raised at a boundary whose host events hold a `switches.toggle` in a configuration without switches (R291;
  log 7).
  Safe: no claim about a next state holds of it. -/
  | switchesNotWired
  deriving DecidableEq, Repr

/-- What a part of a step answers: a value, or one of the two ways to stop. -/
abbrev Result (α : Type) := Host.Outcome α Fault Refusal

/-- The machine after reset with clean memory, nothing loaded and every parameter at its default (R50, R300). -/
def State.reset : State where
  ax := 0x0000#16
  bx := 0x0000#16
  cx := 0x0000#16
  dx := 0x0000#16
  sp := 0x4000#16
  ip := 0x2000#16
  flags := { carry := false, zero := false, sign := false, overflow := false, interrupt := false }
  -- DESIGN CHOICE (log 5): R50 leaves the internal registers unspecified.
  internal := { ir := 0#16, mar := 0#16, mbr := 0#16, id := 0#16, ri := 0#16, left := 0#16, right := 0#16,
                result := 0#16 }
  mem := []
  pic := { imr := 0x00#8, irr := 0x00#8, isr := 0x00#8, eoi := 0x00#8, vec := Vector.replicate 8 0x00#8 }
  pio := { pa := 0x00#8, pb := 0x00#8, ca := 0x00#8, cb := 0x00#8 }
  timer := { cont := 0x00#8, comp := 0x00#8 }
  hs := { data := 0x00#8, state := 0x00#8 }
  switches := 0x00#8
  status := .running
  console := []
  breakpoints := 0
  hostEvents := []
  keyboard := []
  params := {}
  draws := 0

end Sys2Proof.Machine
end

