-- ==== Sys2Proof/Machine/Ops.lean ====
section
/-! DEFINITION. The named operations every meaning is written over: sequencing, registers, flags as a word, memory
(20_memory R84), the stack (43_stack R215, R216), taking an interrupt (60_exceptions R270) and returning from one
(45_control R242), the port multiplexer (20_memory R92 to R98), the console and halting (00_scope R12). -/

namespace Sys2Proof.Machine

/-- Do `o`, then `k` with its answer; a stop ends the sequence (R12: a `raise` ends the block). -/
def andThen {α β : Type} (o : Result α) (k : α → Result β) : Result β :=
  match o with
  | .next a => k a
  | .fault r => .fault r
  | .refused r => .refused r

/-! ### Registers (10_state R30, R31) -/

/-- `x[r]` for a word register. -/
def State.reg16 (s : State) : Reg16 → Word
  | .ax => s.ax
  | .bx => s.bx
  | .cx => s.cx
  | .dx => s.dx
  | .sp => s.sp

/-- `x[r] <- v` for a word register. -/
def State.setReg16 (s : State) (r : Reg16) (v : Word) : State :=
  match r with
  | .ax => { s with ax := v }
  | .bx => { s with bx := v }
  | .cx => { s with cx := v }
  | .dx => { s with dx := v }
  | .sp => { s with sp := v }

/-- `x[r]` for a byte register: a half of its word register (R31). -/
def State.reg8 (s : State) : Reg8 → Byte
  | .al => loByte s.ax
  | .bl => loByte s.bx
  | .cl => loByte s.cx
  | .dl => loByte s.dx
  | .ah => hiByte s.ax
  | .bh => hiByte s.bx
  | .ch => hiByte s.cx
  | .dh => hiByte s.dx

/-- `x[r] <- v` for a byte register: the other half stays (R31). -/
def State.setReg8 (s : State) (r : Reg8) (v : Byte) : State :=
  match r with
  | .al => { s with ax := joinBytes v (hiByte s.ax) }
  | .bl => { s with bx := joinBytes v (hiByte s.bx) }
  | .cl => { s with cx := joinBytes v (hiByte s.cx) }
  | .dl => { s with dx := joinBytes v (hiByte s.dx) }
  | .ah => { s with ax := joinBytes (loByte s.ax) v }
  | .bh => { s with bx := joinBytes (loByte s.bx) v }
  | .ch => { s with cx := joinBytes (loByte s.cx) v }
  | .dh => { s with dx := joinBytes (loByte s.dx) v }

/-- `pc <- target` (R10). -/
def State.setIp (s : State) (target : Word) : State := { s with ip := target }

/-- The flags replaced. -/
def State.setFlags (s : State) (f : Flags) : State := { s with flags := f }

/-- `IF <- b`. -/
def State.setInterrupt (s : State) (b : Bool) : State := { s with flags := { s.flags with interrupt := b } }

/-! ### The FLAGS word (R39) -/

/-- `FlagsWord()`. -/
def Flags.toWord (f : Flags) : Word :=
  flagAt f.overflow 11 ||| flagAt f.interrupt 9 ||| flagAt f.sign 7 ||| flagAt f.zero 6 ||| flagAt f.carry 0

/-- The flags `LoadFlags(w)` loads. -/
def Flags.ofWord (w : Word) : Flags where
  carry := w.getLsbD 0
  zero := w.getLsbD 6
  sign := w.getLsbD 7
  overflow := w.getLsbD 11
  interrupt := w.getLsbD 9

/-- `LoadFlags(w)`. -/
def State.loadFlags (s : State) (w : Word) : State := s.setFlags (Flags.ofWord w)

/-! ### Memory (20_memory R81, R83, R84) -/

/-- `InRange(a)`. -/
def inRange (a : Word) : Bool := decide (a.toNat < Config.memSize)

/-- `MemRead(a, 1)`. -/
def State.memRead8 (s : State) (a : Word) : Result Byte :=
  if inRange a then .next (s.mem.read a.toNat) else .fault (.memoryOutOfRange s.console)

/-- `MemRead(a, 2)`. -/
def State.memRead16 (s : State) (a : Word) : Result Word :=
  if inRange a && inRange (a + 1#16) then
    .next (joinBytes (s.mem.read a.toNat) (s.mem.read (a + 1#16).toNat))
  else .fault (.memoryOutOfRange s.console)

/-- `MemWrite(a, 1, v)`. -/
def State.memWrite8 (s : State) (a : Word) (v : Byte) : Result State :=
  if inRange a then .next { s with mem := s.mem.write a.toNat v } else .fault (.memoryOutOfRange s.console)

/-- `MemWrite(a, 2, v)`: the range check comes before either byte is written. -/
def State.memWrite16 (s : State) (a : Word) (v : Word) : Result State :=
  if inRange a && inRange (a + 1#16) then
    .next { s with mem := (s.mem.write a.toNat (loByte v)).write (a + 1#16).toNat (hiByte v) }
  else .fault (.memoryOutOfRange s.console)

/-! ### The stack (43_stack R215, R216) -/

/-- `Push16(v)`. -/
def State.push16 (s : State) (v : Word) : Result State :=
  if s.sp.toNat < 2 then .fault (.stackOverflow s.console)
  else { s with sp := s.sp - 2#16 }.memWrite16 (s.sp - 2#16) v

/-- `Pop16()`: the popped word and the state with `SP` moved. -/
def State.pop16 (s : State) : Result (Word × State) :=
  if 0x3FFE < s.sp.toNat then .fault (.stackUnderflow s.console)
  else andThen (s.memRead16 s.sp) fun v => .next (v, { s with sp := s.sp + 2#16 })

/-! ### Taking an interrupt and returning from one (60_exceptions R270 to R272) -/

/-- The address of IVT entry `id` (R91). -/
def ivtAddress (id : Byte) : Word := 4#16 * id.setWidth 16

/-- `Dispatch(id)`: FLAGS pushed, IF cleared, IP pushed, IP loaded from the IVT entry read after both pushes (R270,
R246, D29).  The hardware dispatch and `INT n` share it. -/
def State.enterInterrupt (s : State) (id : Byte) : Result State :=
  andThen (s.push16 s.flags.toWord) fun s1 =>
  andThen ((s1.setInterrupt false).push16 s.ip) fun s2 =>
  andThen (s2.memRead16 (ivtAddress id)) fun target =>
  .next (s2.setIp target)

/-- The return: IP popped first, then FLAGS (R242, R272). -/
def State.returnFromInterrupt (s : State) : Result State :=
  andThen s.pop16 fun (target, s1) =>
  andThen (s1.setIp target).pop16 fun (w, s2) =>
  .next (s2.loadFlags w)

/-! ### The I/O space (20_memory R92 to R98) -/

/-- The device registers a port can select (R93). -/
inductive DeviceReg where
  | eoi | imr | irr | isr
  | intVec (n : Fin 8)
  | cont | comp
  | pa | pb | ca | cb
  | hsData | hsState
  deriving DecidableEq, Repr

/-- The register at a port, given the bases; `none` where the port is unmapped (R93, R94).  DESIGN CHOICE (log 20): where
the chosen bases give two registers one port, the first of this order has it. -/
def deviceReg (q : Params) (p : Byte) : Option DeviceReg :=
  if p = q.picBase then some .eoi
  else if p = q.picBase + 1#8 then some .imr
  else if p = q.picBase + 2#8 then some .irr
  else if p = q.picBase + 3#8 then some .isr
  else if p = q.picBase + 4#8 then some (.intVec 0)
  else if p = q.picBase + 5#8 then some (.intVec 1)
  else if p = q.picBase + 6#8 then some (.intVec 2)
  else if p = q.picBase + 7#8 then some (.intVec 3)
  else if p = q.picBase + 8#8 then some (.intVec 4)
  else if p = q.picBase + 9#8 then some (.intVec 5)
  else if p = q.picBase + 10#8 then some (.intVec 6)
  else if p = q.picBase + 11#8 then some (.intVec 7)
  else if p = q.timerBase then some .cont
  else if p = q.timerBase + 1#8 then some .comp
  else if p = q.pioBase then some .pa
  else if p = q.pioBase + 1#8 then some .pb
  else if p = q.pioBase + 2#8 then some .ca
  else if p = q.pioBase + 3#8 then some .cb
  else if p = Config.hsBase then some .hsData
  else if p = Config.hsBase + 1#8 then some .hsState
  else none

/-- The bits of `STATE` that exist: BUSY, STROBE and IE (R47, R95). -/
def hsStateBits : Byte := 0b10000011#8

/-- The bits of `STATE` the CPU can write: STROBE and IE (R47, R96). -/
def hsWritableBits : Byte := 0b10000010#8

/-- `STATE.BUSY` (R47). -/
def Handshake.busy (h : Handshake) : Bool := h.state.getLsbD 0

/-- `STATE.IE` (R47). -/
def Handshake.irqEnable (h : Handshake) : Bool := h.state.getLsbD 7

/-- R93's "CPU read returns" column. -/
def State.readDevice (s : State) : DeviceReg → Byte
  | .eoi => s.pic.eoi
  | .imr => s.pic.imr
  | .irr => s.pic.irr
  | .isr => s.pic.isr
  | .intVec n => s.pic.vec.get n
  | .cont => s.timer.cont
  | .comp => s.timer.comp
  | .pa => s.pio.pa
  | .pb => s.pio.pb
  | .ca => s.pio.ca
  | .cb => s.pio.cb
  | .hsData => s.hs.data
  | .hsState => s.hs.state &&& hsStateBits

/-- R93's "CPU write" column (R96, R97). -/
def State.writeDevice (s : State) (r : DeviceReg) (b : Byte) : State :=
  match r with
  | .eoi => { s with pic := { s.pic with eoi := b } }
  | .imr => { s with pic := { s.pic with imr := b } }
  | .irr => s
  | .isr => s
  | .intVec n => { s with pic := { s.pic with vec := s.pic.vec.set n b } }
  | .cont => { s with timer := { s.timer with cont := b } }
  | .comp => { s with timer := { s.timer with comp := b } }
  | .pa => { s with pio := { s.pio with pa := mergeBits s.pio.ca b s.pio.pa } }
  | .pb => { s with pio := { s.pio with pb := mergeBits s.pio.cb b s.pio.pb } }
  | .ca => { s with pio := { s.pio with ca := b } }
  | .cb => { s with pio := { s.pio with cb := b } }
  | .hsData =>
    if s.hs.busy then s else { s with hs := { data := b, state := setBit s.hs.state 0 } }
  | .hsState => { s with hs := { s.hs with state := (s.hs.state &&& 1#8) ||| (b &&& hsWritableBits) } }

/-- `IoInvalid(DEVICE_CONFIG, p, dir)` (R98). -/
def State.ioInvalid (s : State) (p : Byte) (dir : IoDir) : Bool :=
  s.params.ioInvalid.contains (s.params.deviceConfig, p, dir)

/-- `IORead(p)` (R95). -/
def State.ioRead (s : State) (p : Byte) : Result Byte :=
  if s.ioInvalid p .read then .fault (.ioInvalidDeviceState s.console)
  else .next (match deviceReg s.params p with
    | some r => s.readDevice r
    | none => 0x00#8)

/-- `IOWrite(p, b)` (R96). -/
def State.ioWrite (s : State) (p : Byte) (b : Byte) : Result State :=
  if s.ioInvalid p .write then .fault (.ioInvalidDeviceState s.console)
  else .next (match deviceReg s.params p with
    | some r => s.writeDevice r b
    | none => s)

/-! ### The console, the breakpoint and halting (R12) -/

/-- `ConsoleOut(b)`. -/
def State.consoleOut (s : State) (b : Byte) : State := { s with console := s.console ++ [b] }

/-- `Breakpoint()`. -/
def State.breakpoint (s : State) : State := { s with breakpoints := s.breakpoints + 1 }

/-- `Stop()`. -/
def State.stop (s : State) : State := { s with status := .halted }

end Sys2Proof.Machine
end

