-- ==== Sys2Proof/Machine/Flags.lean ====
section
/-! DEFINITION. The ALU and every flag computation (40_arithmetic R170, R171; 41_logic R200), at any width. -/

namespace Sys2Proof.Machine

/-- What the ALU gives: the result and the four outputs CF' ZF' SF' OF' (R170). -/
structure AluOut (n : Nat) where
  value : BitVec n
  carry : Bool
  zero : Bool
  sign : Bool
  overflow : Bool
  deriving DecidableEq, Repr

/-- The integer `s` is no n-bit two's-complement value (R170: `s < -2^(n-1)` or `s > 2^(n-1) - 1`). -/
def outOfSigned (n : Nat) (s : Int) : Bool := decide (s < -2 ^ (n - 1)) || decide (s > 2 ^ (n - 1) - 1)

/-- `AluAdd(a, b, c, n)` (R170). -/
def aluAdd {n : Nat} (a b : BitVec n) (c : Bool) : AluOut n :=
  let u : Nat := a.toNat + b.toNat + c.toNat
  let s : Int := a.toInt + b.toInt + c.toInt
  let r : BitVec n := BitVec.ofNat n u
  { value := r, carry := decide (u > 2 ^ n - 1), zero := r == 0#n, sign := r.msb, overflow := outOfSigned n s }

/-- `AluSub(a, b, c, n)` (R171). -/
def aluSub {n : Nat} (a b : BitVec n) (c : Bool) : AluOut n :=
  let u : Int := (a.toNat : Int) - (b.toNat : Int) - c.toInt
  let s : Int := a.toInt - b.toInt - c.toInt
  let r : BitVec n := BitVec.ofInt n u
  { value := r, carry := decide (u < 0), zero := r == 0#n, sign := r.msb, overflow := outOfSigned n s }

/-- The logic instructions' outputs: CF and OF are 0, ZF and SF follow the result (R200). -/
def aluLogic {n : Nat} (r : BitVec n) : AluOut n :=
  { value := r, carry := false, zero := r == 0#n, sign := r.msb, overflow := false }

/-- The flags with all four status flags taken from the ALU; `IF` stays (R173, R200). -/
def Flags.withAlu {n : Nat} (f : Flags) (o : AluOut n) : Flags :=
  { f with carry := o.carry, zero := o.zero, sign := o.sign, overflow := o.overflow }

/-- The flags with ZF, SF and OF taken from the ALU; `CF` and `IF` stay (R180, R181). -/
def Flags.withAluKeepCarry {n : Nat} (f : Flags) (o : AluOut n) : Flags :=
  { f with zero := o.zero, sign := o.sign, overflow := o.overflow }

/-- The Binary operations that compute and write back (R174 to R177, R201 to R203). -/
inductive AluOp where
  | add | adc | sub | sbb | and | or | xor
  deriving DecidableEq, Repr

/-- The ALU's output for a Binary operation on `a` (destination) and `b` (source) with `CF = c`. -/
def AluOp.eval {n : Nat} (op : AluOp) (a b : BitVec n) (c : Bool) : AluOut n :=
  match op with
  | .add => aluAdd a b false
  | .adc => aluAdd a b c
  | .sub => aluSub a b false
  | .sbb => aluSub a b c
  | .and => aluLogic (a &&& b)
  | .or => aluLogic (a ||| b)
  | .xor => aluLogic (a ^^^ b)

/-- The ALU's output for a Unary operation (R179 to R181, R204). -/
def unEval {n : Nat} (op : UnOp) (a : BitVec n) : AluOut n :=
  match op with
  | .inc => aluAdd a 1#n false
  | .dec => aluSub a 1#n false
  | .neg => aluSub 0#n a false
  | .not => aluLogic (~~~a)

/-- The flags after a Unary operation: INC and DEC keep CF. -/
def Flags.afterUnary {n : Nat} (f : Flags) (op : UnOp) (o : AluOut n) : Flags :=
  match op with
  | .inc => f.withAluKeepCarry o
  | .dec => f.withAluKeepCarry o
  | .neg => f.withAlu o
  | .not => f.withAlu o

/-- The eight conditions of the conditional jumps (R137, R232 to R239). -/
inductive Cond where
  | z | nz | c | nc | s | ns | o | no
  deriving DecidableEq, Repr

/-- The condition holds (R137's table). -/
def Cond.holds (k : Cond) (f : Flags) : Bool :=
  match k with
  | .z => f.zero
  | .nz => !f.zero
  | .c => f.carry
  | .nc => !f.carry
  | .s => f.sign
  | .ns => !f.sign
  | .o => f.overflow
  | .no => !f.overflow

end Sys2Proof.Machine
end

