-- ==== Sys2Proof/Machine/Operands.lean ====
section
/-! DEFINITION. The operand forms (30_encoding R130, R131, R134, R145) and the shared bodies of the Binary and the Unary
instructions (40_arithmetic R173): destination read first, then source, then the flags and the writeback. -/

namespace Sys2Proof.Machine

/-- A byte that can be read and written: `Reg(0, i)` or `Mem(EA, 0)` (R144). -/
inductive Loc8 where
  | reg (r : Reg8)
  | mem (ea : Word)
  deriving DecidableEq, Repr

/-- A word that can be read and written: `Reg(1, i)` or `Mem(EA, 1)` (R144). -/
inductive Loc16 where
  | reg (r : Reg16)
  | mem (ea : Word)
  deriving DecidableEq, Repr

/-- A byte source. -/
inductive Src8 where
  | loc (l : Loc8)
  | imm (v : Byte)
  deriving DecidableEq, Repr

/-- A word source. -/
inductive Src16 where
  | loc (l : Loc16)
  | imm (v : Word)
  deriving DecidableEq, Repr

/-- The decoded operands of a Binary instruction. -/
inductive BinOperands where
  | byte (dst : Loc8) (src : Src8)
  | word (dst : Loc16) (src : Src16)
  deriving DecidableEq, Repr

/-- The decoded operand of a Unary instruction. -/
inductive UnOperand where
  | byte (l : Loc8)
  | word (l : Loc16)
  deriving DecidableEq, Repr

/-- `op reg, [ea]`. -/
def regFromMem (d : Reg) (ea : Word) : BinOperands :=
  match d with
  | .byte r => .byte (.reg r) (.loc (.mem ea))
  | .word r => .word (.reg r) (.loc (.mem ea))

/-- `op [ea], reg`. -/
def memFromReg (ea : Word) (r : Reg) : BinOperands :=
  match r with
  | .byte r => .byte (.mem ea) (.loc (.reg r))
  | .word r => .word (.mem ea) (.loc (.reg r))

/-- `op [ea], imm`. -/
def memFromImm (ea : Word) (v : Imm) : BinOperands :=
  match v with
  | .byte v => .byte (.mem ea) (.imm v)
  | .word v => .word (.mem ea) (.imm v)

/-- The operands of each form of R131; `[BX]` has EA = `x[BX]` (R130). -/
def binOperands (f : BinForm) (s : State) : BinOperands :=
  match f with
  | .regReg (.byte d r) => .byte (.reg d) (.loc (.reg r))
  | .regReg (.word d r) => .word (.reg d) (.loc (.reg r))
  | .regBx d => regFromMem d s.bx
  | .regMem d addr => regFromMem d addr
  | .bxReg r => memFromReg s.bx r
  | .memReg addr r => memFromReg addr r
  | .regImm (.byte d v) => .byte (.reg d) (.imm v)
  | .regImm (.word d v) => .word (.reg d) (.imm v)
  | .bxImm v => memFromImm s.bx v
  | .memImm addr v => memFromImm addr v

/-- `M[ea]` at a size. -/
def memOperand (w : Size) (ea : Word) : UnOperand :=
  match w with
  | .byte => .byte (.mem ea)
  | .word => .word (.mem ea)

/-- The operand of each selector of R134. -/
def unOperand (f : UnForm) (s : State) : UnOperand :=
  match f with
  | .reg (.byte r) => .byte (.reg r)
  | .reg (.word r) => .word (.reg r)
  | .bx w => memOperand w s.bx
  | .mem w addr => memOperand w addr

/-! ### `ReadOp` and `WriteOp` (R145) -/

/-- `ReadOp` of a byte location. -/
def State.readLoc8 (s : State) : Loc8 → Result Byte
  | .reg r => .next (s.reg8 r)
  | .mem ea => s.memRead8 ea

/-- `ReadOp` of a word location. -/
def State.readLoc16 (s : State) : Loc16 → Result Word
  | .reg r => .next (s.reg16 r)
  | .mem ea => s.memRead16 ea

/-- `ReadOp` of a byte source. -/
def State.readSrc8 (s : State) : Src8 → Result Byte
  | .loc l => s.readLoc8 l
  | .imm v => .next v

/-- `ReadOp` of a word source. -/
def State.readSrc16 (s : State) : Src16 → Result Word
  | .loc l => s.readLoc16 l
  | .imm v => .next v

/-- `WriteOp` of a byte location. -/
def State.writeLoc8 (s : State) (l : Loc8) (v : Byte) : Result State :=
  match l with
  | .reg r => .next (s.setReg8 r v)
  | .mem ea => s.memWrite8 ea v

/-- `WriteOp` of a word location. -/
def State.writeLoc16 (s : State) (l : Loc16) (v : Word) : Result State :=
  match l with
  | .reg r => .next (s.setReg16 r v)
  | .mem ea => s.memWrite16 ea v

/-! ### The shared bodies -/

/-- A Binary instruction that reads both operands, sets the four flags and writes the result (R173, R200). -/
def binary (op : AluOp) (o : BinOperands) (s : State) : Result State :=
  match o with
  | .byte dst src =>
    andThen (s.readLoc8 dst) fun a =>
    andThen (s.readSrc8 src) fun b =>
    (s.setFlags (s.flags.withAlu (op.eval a b s.flags.carry))).writeLoc8 dst (op.eval a b s.flags.carry).value
  | .word dst src =>
    andThen (s.readLoc16 dst) fun a =>
    andThen (s.readSrc16 src) fun b =>
    (s.setFlags (s.flags.withAlu (op.eval a b s.flags.carry))).writeLoc16 dst (op.eval a b s.flags.carry).value

/-- CMP: the flags of SUB, nothing written (R178). -/
def compareOnly (o : BinOperands) (s : State) : Result State :=
  match o with
  | .byte dst src =>
    andThen (s.readLoc8 dst) fun a =>
    andThen (s.readSrc8 src) fun b =>
    .next (s.setFlags (s.flags.withAlu (aluSub a b false)))
  | .word dst src =>
    andThen (s.readLoc16 dst) fun a =>
    andThen (s.readSrc16 src) fun b =>
    .next (s.setFlags (s.flags.withAlu (aluSub a b false)))

/-- MOV: the source copied, the destination not read, no flag written (R211). -/
def move (o : BinOperands) (s : State) : Result State :=
  match o with
  | .byte dst src => andThen (s.readSrc8 src) fun v => s.writeLoc8 dst v
  | .word dst src => andThen (s.readSrc16 src) fun v => s.writeLoc16 dst v

/-- A Unary instruction (R179 to R181, R204). -/
def unary (op : UnOp) (o : UnOperand) (s : State) : Result State :=
  match o with
  | .byte l =>
    andThen (s.readLoc8 l) fun a =>
    (s.setFlags (s.flags.afterUnary op (unEval op a))).writeLoc8 l (unEval op a).value
  | .word l =>
    andThen (s.readLoc16 l) fun a =>
    (s.setFlags (s.flags.afterUnary op (unEval op a))).writeLoc16 l (unEval op a).value

end Sys2Proof.Machine
end

