-- ==== Sys2Proof/Machine/Misc.lean ====
section
/-! DEFINITION. Software interrupts and the rest (46_misc): INT n, INT 0, INT 3, INT 6, INT 7, CLI, STI, HLT, NOP. -/

namespace Sys2Proof.Machine

/-- `INT n` through the IVT (R246): never checked against `RESERVED_IDS`, never blocked by `IF` (R251). -/
def execIntN (n : Byte) (s : State) : Result State := s.enterInterrupt n

/-- `INT 0`: halt (R247). -/
def execInt0 (s : State) : Result State := .next s.stop

/-- `INT 3`: breakpoint (R248). -/
def execInt3 (s : State) : Result State := .next s.breakpoint

/-- The end of `INT 6` once the host has fed `b`: store it at `[BX]`, pop FLAGS, run on (R249, R287). -/
def finishInt6 (b : Byte) (s : State) : Result State :=
  andThen (s.memWrite8 s.bx b) fun s1 =>
  andThen s1.pop16 fun (w, s2) =>
  .next { s2.loadFlags w with status := .running }

/-- `HostInput()` inside `INT 6`: the byte the host answers with, or the wait for it (R12, R249, R287). -/
def awaitKeyboard (s : State) : Result State :=
  match s.keyboard with
  | [] => .next { s with status := .awaitingInput }
  | b :: rest => finishInt6 b { s with keyboard := rest }

/-- `INT 6`: read one byte from the console into `[BX]` (R249). -/
def execInt6 (s : State) : Result State :=
  andThen (s.push16 s.flags.toWord) fun s1 => awaitKeyboard (s1.setInterrupt false)

/-- `ConsoleOut` of the `count` bytes at `a`, `a+1`, ... (mod 2^16), in that order (R250). -/
def printBytes : Nat → Word → State → Result State
  | 0, _, s => .next s
  | count + 1, a, s => andThen (s.memRead8 a) fun b => printBytes count (a + 1#16) (s.consoleOut b)

/-- `INT 7`: write `AL` bytes from `[BX]` to the console (R250). -/
def execInt7 (s : State) : Result State :=
  andThen (s.push16 s.flags.toWord) fun s1 =>
  andThen (printBytes (s.reg8 .al).toNat s.bx (s1.setInterrupt false)) fun s2 =>
  andThen s2.pop16 fun (w, s3) =>
  .next (s3.loadFlags w)

/-- `CLI` (R253). -/
def execCli (s : State) : Result State := .next (s.setInterrupt false)

/-- `STI` (R254). -/
def execSti (s : State) : Result State := .next (s.setInterrupt true)

/-- `HLT` (R255). -/
def execHlt (s : State) : Result State := .next s.stop

/-- `NOP` (R256). -/
def execNop (s : State) : Result State := .next s

end Sys2Proof.Machine
end

