-- ==== Sys2Proof/Machine/Boundary.lean ====
section
/-! DEFINITION. What happens at an instruction boundary before the instruction (60_exceptions R274 to R294): the host's
events, the PIC's update, the hardware dispatch. -/

namespace Sys2Proof.Machine

/-! ### Host events (R281 to R288) -/

/-- `request(n)` (R281). -/
def State.request (s : State) (n : Fin 8) : State := { s with pic := { s.pic with irr := setBit s.pic.irr n } }

/-- `cancel(n)` (R283). -/
def State.cancel (s : State) (n : Fin 8) : State := { s with pic := { s.pic with irr := clearBit s.pic.irr n } }

/-- `TimerTick()`: increment, then compare (R284). -/
def State.timerTick (s : State) : State :=
  let cont := s.timer.cont + 1#8
  let s1 : State := { s with timer := { s.timer with cont := cont } }
  if cont = s.timer.comp then s1.request s.params.timerLine else s1

/-- `PrinterDone()`, while BUSY (R285). -/
def State.printerDone (s : State) : State :=
  let s1 : State := { s.consoleOut s.hs.data with hs := { s.hs with state := clearBit s.hs.state 0 } }
  if s.hs.irqEnable then s1.request s.params.hsLine else s1

/-- `PioDriveA(ext)`: the input bits of `PA` take the device's value (R288). -/
def State.pioDriveA (s : State) (ext : Byte) : State :=
  { s with pio := { s.pio with pa := (s.pio.pa &&& s.pio.ca) ||| (ext &&& ~~~ s.pio.ca) } }

/-- `PioDriveB(ext)` (R288). -/
def State.pioDriveB (s : State) (ext : Byte) : State :=
  { s with pio := { s.pio with pb := (s.pio.pb &&& s.pio.cb) ||| (ext &&& ~~~ s.pio.cb) } }

/-- `switches.toggle(i)` (R288). -/
def State.switchToggle (s : State) (i : Fin 8) : State :=
  { s with switches := flipBit s.switches i }.pioDriveA (flipBit s.switches i)

/-- One host event with its precondition (R291). -/
def State.hostEvent (s : State) (e : HostEvent) : Result State :=
  match e with
  | .clockTick => .next s.timerTick
  | .f10Press => .next (s.request Config.f10Line)
  | .switchToggle i =>
    if s.params.deviceConfig = .pioSwitchesLeds then .next (s.switchToggle i) else .refused .switchesNotWired
  | .pioDriveA ext => .next (s.pioDriveA ext)
  | .pioDriveB ext => .next (s.pioDriveB ext)
  | .printerDone => if s.hs.busy then .next s.printerDone else .refused .printerDoneWhileIdle
  | .request n => .next (s.request n)
  | .cancel n => .next (s.cancel n)

/-- The host events of one boundary, in the order the host applies them (R294). -/
def hostEventsAt : List HostEvent → State → Result State
  | [], s => .next s
  | e :: es, s => andThen (s.hostEvent e) (hostEventsAt es)

/-- The events of this boundary, taken off the schedule and applied (R291, R292). -/
def takeHostEvents (s : State) : Result State :=
  match s.hostEvents with
  | [] => .next s
  | es :: later => hostEventsAt es { s with hostEvents := later }

/-! ### The PIC (R274 to R279) -/

/-- The pending lines that are not masked (R275 step 3). -/
def Pic.eligible (p : Pic) : Byte := p.irr &&& ~~~ p.imr

/-- The priority encoder: the least set bit (R277). -/
def lowestLine (b : Byte) : Option (Fin 8) :=
  [0, 1, 2, 3, 4, 5, 6, 7].find? fun n : Fin 8 => b.getLsbD n.val

/-- Step 5, as one action (R279). -/
def Pic.acknowledge (p : Pic) (n : Fin 8) : Pic :=
  { p with irr := clearBit p.irr n, isr := setBit p.isr n, eoi := 0x00#8 }

/-- `PIC.update()`: the vector to dispatch, if any, and the state (R275). -/
def picUpdate (s : State) : Result (Option Byte × State) :=
  if s.pic.isr ≠ 0#8 ∧ s.pic.eoi = Config.eoiCommand then
    .next (none, { s with pic := { s.pic with isr := 0x00#8, eoi := 0x00#8 } })
  else if s.pic.isr ≠ 0#8 ∨ s.flags.interrupt = false then .next (none, s)
  else
    match lowestLine s.pic.eligible with
    | none => .next (none, s)
    | some n =>
      if s.params.reservedIds.contains (s.pic.vec.get n) then .fault (.reservedInterrupt s.console)
      else .next (some (s.pic.vec.get n), { s with pic := s.pic.acknowledge n })

/-- `PIC.update()` and the dispatch of the vector it gives (R292). -/
def serviceInterrupts (s : State) : Result State :=
  andThen (picUpdate s) fun (id, s1) =>
  match id with
  | none => .next s1
  | some id => s1.enterInterrupt id

/-- Everything a boundary does before the instruction's decode (R292, R294). -/
def boundary (s : State) : Result State := andThen (takeHostEvents s) serviceInterrupts

/-! ### The internal registers at a boundary (R41; log 4) -/

/-- Every internal register takes a free value. -/
def State.drawInternal (s : State) : State :=
  { s with
    internal := {
      ir := Config.freeInternal s.draws
      mar := Config.freeInternal (s.draws + 1)
      mbr := Config.freeInternal (s.draws + 2)
      id := Config.freeInternal (s.draws + 3)
      ri := Config.freeInternal (s.draws + 4)
      left := Config.freeInternal (s.draws + 5)
      right := Config.freeInternal (s.draws + 6)
      result := Config.freeInternal (s.draws + 7) }
    draws := s.draws + 8 }

/-- The end of an instruction: its answer, with the internal registers unspecified. -/
def endOfInstruction (o : Result State) : Result State := andThen o fun t => .next t.drawInternal

/-- An `INT 6` that waits: it ends with the host's byte, or goes on waiting for ever (R249, R291, I13). -/
def resumeInt6 (s : State) : Result State :=
  match s.keyboard with
  | [] => .next s
  | b :: rest => endOfInstruction (finishInt6 b { s with keyboard := rest })

/-! ### Outputs the host observes (R289) -/

/-- The LEDs of the configuration `pio-switches-leds`: `PB & CB` (R289). -/
def State.leds (s : State) : Byte := s.pio.pb &&& s.pio.cb

/-- The output bits of port A (R289). -/
def State.portAOutputs (s : State) : Byte := s.pio.pa &&& s.pio.ca

end Sys2Proof.Machine
end

