-- ==== Sys2Proof/Machine/Arithmetic.lean ====
section
/-! DEFINITION. The arithmetic instructions (40_arithmetic): ADD ADC SUB SBB CMP INC DEC NEG, one meaning per row. -/

namespace Sys2Proof.Machine

/-! ### ADD (R174) -/

/-- `ADD reg, reg` (R174, R131). -/
def execAddRegReg (p : RegPair) (s : State) : Result State :=
  binary .add (binOperands (.regReg p) s) s

/-- `ADD reg, [BX]` (R174, R131). -/
def execAddRegBx (d : Reg) (s : State) : Result State :=
  binary .add (binOperands (.regBx d) s) s

/-- `ADD reg, [addr]` (R174, R131). -/
def execAddRegMem (d : Reg) (addr : Word) (s : State) : Result State :=
  binary .add (binOperands (.regMem d addr) s) s

/-- `ADD [BX], reg` (R174, R131). -/
def execAddBxReg (r : Reg) (s : State) : Result State :=
  binary .add (binOperands (.bxReg r) s) s

/-- `ADD [addr], reg` (R174, R131). -/
def execAddMemReg (addr : Word) (r : Reg) (s : State) : Result State :=
  binary .add (binOperands (.memReg addr r) s) s

/-- `ADD reg, imm` (R174, R131). -/
def execAddRegImm (q : RegImm) (s : State) : Result State :=
  binary .add (binOperands (.regImm q) s) s

/-- `ADD [BX], imm` (R174, R131). -/
def execAddBxImm (v : Imm) (s : State) : Result State :=
  binary .add (binOperands (.bxImm v) s) s

/-- `ADD [addr], imm` (R174, R131). -/
def execAddMemImm (addr : Word) (v : Imm) (s : State) : Result State :=
  binary .add (binOperands (.memImm addr v) s) s

/-! ### ADC (R175) -/

/-- `ADC reg, reg` (R175, R131). -/
def execAdcRegReg (p : RegPair) (s : State) : Result State :=
  binary .adc (binOperands (.regReg p) s) s

/-- `ADC reg, [BX]` (R175, R131). -/
def execAdcRegBx (d : Reg) (s : State) : Result State :=
  binary .adc (binOperands (.regBx d) s) s

/-- `ADC reg, [addr]` (R175, R131). -/
def execAdcRegMem (d : Reg) (addr : Word) (s : State) : Result State :=
  binary .adc (binOperands (.regMem d addr) s) s

/-- `ADC [BX], reg` (R175, R131). -/
def execAdcBxReg (r : Reg) (s : State) : Result State :=
  binary .adc (binOperands (.bxReg r) s) s

/-- `ADC [addr], reg` (R175, R131). -/
def execAdcMemReg (addr : Word) (r : Reg) (s : State) : Result State :=
  binary .adc (binOperands (.memReg addr r) s) s

/-- `ADC reg, imm` (R175, R131). -/
def execAdcRegImm (q : RegImm) (s : State) : Result State :=
  binary .adc (binOperands (.regImm q) s) s

/-- `ADC [BX], imm` (R175, R131). -/
def execAdcBxImm (v : Imm) (s : State) : Result State :=
  binary .adc (binOperands (.bxImm v) s) s

/-- `ADC [addr], imm` (R175, R131). -/
def execAdcMemImm (addr : Word) (v : Imm) (s : State) : Result State :=
  binary .adc (binOperands (.memImm addr v) s) s

/-! ### SUB (R176) -/

/-- `SUB reg, reg` (R176, R131). -/
def execSubRegReg (p : RegPair) (s : State) : Result State :=
  binary .sub (binOperands (.regReg p) s) s

/-- `SUB reg, [BX]` (R176, R131). -/
def execSubRegBx (d : Reg) (s : State) : Result State :=
  binary .sub (binOperands (.regBx d) s) s

/-- `SUB reg, [addr]` (R176, R131). -/
def execSubRegMem (d : Reg) (addr : Word) (s : State) : Result State :=
  binary .sub (binOperands (.regMem d addr) s) s

/-- `SUB [BX], reg` (R176, R131). -/
def execSubBxReg (r : Reg) (s : State) : Result State :=
  binary .sub (binOperands (.bxReg r) s) s

/-- `SUB [addr], reg` (R176, R131). -/
def execSubMemReg (addr : Word) (r : Reg) (s : State) : Result State :=
  binary .sub (binOperands (.memReg addr r) s) s

/-- `SUB reg, imm` (R176, R131). -/
def execSubRegImm (q : RegImm) (s : State) : Result State :=
  binary .sub (binOperands (.regImm q) s) s

/-- `SUB [BX], imm` (R176, R131). -/
def execSubBxImm (v : Imm) (s : State) : Result State :=
  binary .sub (binOperands (.bxImm v) s) s

/-- `SUB [addr], imm` (R176, R131). -/
def execSubMemImm (addr : Word) (v : Imm) (s : State) : Result State :=
  binary .sub (binOperands (.memImm addr v) s) s

/-! ### SBB (R177) -/

/-- `SBB reg, reg` (R177, R131). -/
def execSbbRegReg (p : RegPair) (s : State) : Result State :=
  binary .sbb (binOperands (.regReg p) s) s

/-- `SBB reg, [BX]` (R177, R131). -/
def execSbbRegBx (d : Reg) (s : State) : Result State :=
  binary .sbb (binOperands (.regBx d) s) s

/-- `SBB reg, [addr]` (R177, R131). -/
def execSbbRegMem (d : Reg) (addr : Word) (s : State) : Result State :=
  binary .sbb (binOperands (.regMem d addr) s) s

/-- `SBB [BX], reg` (R177, R131). -/
def execSbbBxReg (r : Reg) (s : State) : Result State :=
  binary .sbb (binOperands (.bxReg r) s) s

/-- `SBB [addr], reg` (R177, R131). -/
def execSbbMemReg (addr : Word) (r : Reg) (s : State) : Result State :=
  binary .sbb (binOperands (.memReg addr r) s) s

/-- `SBB reg, imm` (R177, R131). -/
def execSbbRegImm (q : RegImm) (s : State) : Result State :=
  binary .sbb (binOperands (.regImm q) s) s

/-- `SBB [BX], imm` (R177, R131). -/
def execSbbBxImm (v : Imm) (s : State) : Result State :=
  binary .sbb (binOperands (.bxImm v) s) s

/-- `SBB [addr], imm` (R177, R131). -/
def execSbbMemImm (addr : Word) (v : Imm) (s : State) : Result State :=
  binary .sbb (binOperands (.memImm addr v) s) s

/-! ### CMP (R178): SUB without the writeback -/

/-- `CMP reg, reg` (R178, R131). -/
def execCmpRegReg (p : RegPair) (s : State) : Result State :=
  compareOnly (binOperands (.regReg p) s) s

/-- `CMP reg, [BX]` (R178, R131). -/
def execCmpRegBx (d : Reg) (s : State) : Result State :=
  compareOnly (binOperands (.regBx d) s) s

/-- `CMP reg, [addr]` (R178, R131). -/
def execCmpRegMem (d : Reg) (addr : Word) (s : State) : Result State :=
  compareOnly (binOperands (.regMem d addr) s) s

/-- `CMP [BX], reg` (R178, R131). -/
def execCmpBxReg (r : Reg) (s : State) : Result State :=
  compareOnly (binOperands (.bxReg r) s) s

/-- `CMP [addr], reg` (R178, R131). -/
def execCmpMemReg (addr : Word) (r : Reg) (s : State) : Result State :=
  compareOnly (binOperands (.memReg addr r) s) s

/-- `CMP reg, imm` (R178, R131). -/
def execCmpRegImm (q : RegImm) (s : State) : Result State :=
  compareOnly (binOperands (.regImm q) s) s

/-- `CMP [BX], imm` (R178, R131). -/
def execCmpBxImm (v : Imm) (s : State) : Result State :=
  compareOnly (binOperands (.bxImm v) s) s

/-- `CMP [addr], imm` (R178, R131). -/
def execCmpMemImm (addr : Word) (v : Imm) (s : State) : Result State :=
  compareOnly (binOperands (.memImm addr v) s) s

/-! ### INC (R180) -/

/-- `INC reg` (R180, R134). -/
def execIncReg (r : Reg) (s : State) : Result State :=
  unary .inc (unOperand (.reg r) s) s

/-- `INC [BX]` (R180, R134). -/
def execIncBx (w : Size) (s : State) : Result State :=
  unary .inc (unOperand (.bx w) s) s

/-- `INC [addr]` (R180, R134). -/
def execIncMem (w : Size) (addr : Word) (s : State) : Result State :=
  unary .inc (unOperand (.mem w addr) s) s

/-! ### DEC (R181) -/

/-- `DEC reg` (R181, R134). -/
def execDecReg (r : Reg) (s : State) : Result State :=
  unary .dec (unOperand (.reg r) s) s

/-- `DEC [BX]` (R181, R134). -/
def execDecBx (w : Size) (s : State) : Result State :=
  unary .dec (unOperand (.bx w) s) s

/-- `DEC [addr]` (R181, R134). -/
def execDecMem (w : Size) (addr : Word) (s : State) : Result State :=
  unary .dec (unOperand (.mem w addr) s) s

/-! ### NEG (R179) -/

/-- `NEG reg` (R179, R134). -/
def execNegReg (r : Reg) (s : State) : Result State :=
  unary .neg (unOperand (.reg r) s) s

/-- `NEG [BX]` (R179, R134). -/
def execNegBx (w : Size) (s : State) : Result State :=
  unary .neg (unOperand (.bx w) s) s

/-- `NEG [addr]` (R179, R134). -/
def execNegMem (w : Size) (addr : Word) (s : State) : Result State :=
  unary .neg (unOperand (.mem w addr) s) s

end Sys2Proof.Machine
end

