-- ==== Sys2Proof/Machine/Control.lean ====
section
/-! DEFINITION. Control transfer (45_control): JMP, the conditional jumps, CALL, RET, IRET.  `IP` already holds the
address of the next sequential instruction (R34, R230). -/

namespace Sys2Proof.Machine

/-- A conditional jump: taken to the absolute `addr`, or `IP` left alone (R230). -/
def jumpIf (k : Cond) (addr : Word) (s : State) : Result State :=
  .next (if k.holds s.flags then s.setIp addr else s)

/-- `JMP label` (R231). -/
def execJmp (addr : Word) (s : State) : Result State := .next (s.setIp addr)

/-- `CALL label` (R240). -/
def execCall (addr : Word) (s : State) : Result State :=
  andThen (s.push16 s.ip) fun s1 => .next (s1.setIp addr)

/-- `JZ label` (R232). -/
def execJz (addr : Word) (s : State) : Result State := jumpIf .z addr s

/-- `JNZ label` (R233). -/
def execJnz (addr : Word) (s : State) : Result State := jumpIf .nz addr s

/-- `JC label` (R234). -/
def execJc (addr : Word) (s : State) : Result State := jumpIf .c addr s

/-- `JNC label` (R235). -/
def execJnc (addr : Word) (s : State) : Result State := jumpIf .nc addr s

/-- `JS label` (R236). -/
def execJs (addr : Word) (s : State) : Result State := jumpIf .s addr s

/-- `JNS label` (R237). -/
def execJns (addr : Word) (s : State) : Result State := jumpIf .ns addr s

/-- `JO label` (R238). -/
def execJo (addr : Word) (s : State) : Result State := jumpIf .o addr s

/-- `JNO label` (R239). -/
def execJno (addr : Word) (s : State) : Result State := jumpIf .no addr s

/-- `RET` (R241). -/
def execRet (s : State) : Result State :=
  andThen s.pop16 fun (target, s1) => .next (s1.setIp target)

/-- `IRET` (R242). -/
def execIret (s : State) : Result State := s.returnFromInterrupt

end Sys2Proof.Machine
end

