-- ==== Sys2Proof/Machine/DataMove.lean ====
section
/-! DEFINITION. The data move (42_data_move): MOV in its eight forms. -/

namespace Sys2Proof.Machine

/-- `MOV reg, reg` (R211, R131). -/
def execMovRegReg (p : RegPair) (s : State) : Result State :=
  move (binOperands (.regReg p) s) s

/-- `MOV reg, [BX]` (R211, R131). -/
def execMovRegBx (d : Reg) (s : State) : Result State :=
  move (binOperands (.regBx d) s) s

/-- `MOV reg, [addr]` (R211, R131). -/
def execMovRegMem (d : Reg) (addr : Word) (s : State) : Result State :=
  move (binOperands (.regMem d addr) s) s

/-- `MOV [BX], reg` (R211, R131). -/
def execMovBxReg (r : Reg) (s : State) : Result State :=
  move (binOperands (.bxReg r) s) s

/-- `MOV [addr], reg` (R211, R131). -/
def execMovMemReg (addr : Word) (r : Reg) (s : State) : Result State :=
  move (binOperands (.memReg addr r) s) s

/-- `MOV reg, imm` (R211, R131). -/
def execMovRegImm (q : RegImm) (s : State) : Result State :=
  move (binOperands (.regImm q) s) s

/-- `MOV [BX], imm` (R211, R131). -/
def execMovBxImm (v : Imm) (s : State) : Result State :=
  move (binOperands (.bxImm v) s) s

/-- `MOV [addr], imm` (R211, R131). -/
def execMovMemImm (addr : Word) (v : Imm) (s : State) : Result State :=
  move (binOperands (.memImm addr v) s) s

end Sys2Proof.Machine
end

