-- ==== Sys2Proof/Machine/Io.lean ====
section
/-! DEFINITION. The I/O instructions (44_io): IN and OUT, with the port in the instruction or in DX. -/

namespace Sys2Proof.Machine

/-- The body of IN from port `p` (R225, R227): a word is port `p`, then port `p + 1` mod 256. -/
def inFrom (w : Size) (p : Byte) (s : State) : Result State :=
  match w with
  | .byte => andThen (s.ioRead p) fun b => .next (s.setReg8 .al b)
  | .word =>
    andThen (s.ioRead p) fun lo =>
    andThen (s.ioRead (p + 1#8)) fun hi =>
    .next (s.setReg16 .ax (joinBytes lo hi))

/-- The body of OUT to port `p` (R225, R228). -/
def outTo (w : Size) (p : Byte) (s : State) : Result State :=
  match w with
  | .byte => s.ioWrite p (s.reg8 .al)
  | .word => andThen (s.ioWrite p (loByte s.ax)) fun s1 => s1.ioWrite (p + 1#8) (hiByte s.ax)

/-- The port in `DX`: its low byte (R226). -/
def State.dxPort (s : State) : Byte := loByte s.dx

/-- `IN AL|AX, port8` (R227). -/
def execInPort (w : Size) (port : Byte) (s : State) : Result State := inFrom w port s

/-- `IN AL|AX, DX` (R227). -/
def execInDx (w : Size) (s : State) : Result State := inFrom w s.dxPort s

/-- `OUT port8, AL|AX` (R228). -/
def execOutPort (w : Size) (port : Byte) (s : State) : Result State := outTo w port s

/-- `OUT DX, AL|AX` (R228). -/
def execOutDx (w : Size) (s : State) : Result State := outTo w s.dxPort s

end Sys2Proof.Machine
end

