-- ==== Sys2Proof/Machine/Logic.lean ====
section
/-! DEFINITION. The logic instructions (41_logic): AND OR XOR NOT, one meaning per row. -/

namespace Sys2Proof.Machine

/-! ### AND (R201) -/

/-- `AND reg, reg` (R201, R131). -/
def execAndRegReg (p : RegPair) (s : State) : Result State :=
  binary .and (binOperands (.regReg p) s) s

/-- `AND reg, [BX]` (R201, R131). -/
def execAndRegBx (d : Reg) (s : State) : Result State :=
  binary .and (binOperands (.regBx d) s) s

/-- `AND reg, [addr]` (R201, R131). -/
def execAndRegMem (d : Reg) (addr : Word) (s : State) : Result State :=
  binary .and (binOperands (.regMem d addr) s) s

/-- `AND [BX], reg` (R201, R131). -/
def execAndBxReg (r : Reg) (s : State) : Result State :=
  binary .and (binOperands (.bxReg r) s) s

/-- `AND [addr], reg` (R201, R131). -/
def execAndMemReg (addr : Word) (r : Reg) (s : State) : Result State :=
  binary .and (binOperands (.memReg addr r) s) s

/-- `AND reg, imm` (R201, R131). -/
def execAndRegImm (q : RegImm) (s : State) : Result State :=
  binary .and (binOperands (.regImm q) s) s

/-- `AND [BX], imm` (R201, R131). -/
def execAndBxImm (v : Imm) (s : State) : Result State :=
  binary .and (binOperands (.bxImm v) s) s

/-- `AND [addr], imm` (R201, R131). -/
def execAndMemImm (addr : Word) (v : Imm) (s : State) : Result State :=
  binary .and (binOperands (.memImm addr v) s) s

/-! ### OR (R202) -/

/-- `OR reg, reg` (R202, R131). -/
def execOrRegReg (p : RegPair) (s : State) : Result State :=
  binary .or (binOperands (.regReg p) s) s

/-- `OR reg, [BX]` (R202, R131). -/
def execOrRegBx (d : Reg) (s : State) : Result State :=
  binary .or (binOperands (.regBx d) s) s

/-- `OR reg, [addr]` (R202, R131). -/
def execOrRegMem (d : Reg) (addr : Word) (s : State) : Result State :=
  binary .or (binOperands (.regMem d addr) s) s

/-- `OR [BX], reg` (R202, R131). -/
def execOrBxReg (r : Reg) (s : State) : Result State :=
  binary .or (binOperands (.bxReg r) s) s

/-- `OR [addr], reg` (R202, R131). -/
def execOrMemReg (addr : Word) (r : Reg) (s : State) : Result State :=
  binary .or (binOperands (.memReg addr r) s) s

/-- `OR reg, imm` (R202, R131). -/
def execOrRegImm (q : RegImm) (s : State) : Result State :=
  binary .or (binOperands (.regImm q) s) s

/-- `OR [BX], imm` (R202, R131). -/
def execOrBxImm (v : Imm) (s : State) : Result State :=
  binary .or (binOperands (.bxImm v) s) s

/-- `OR [addr], imm` (R202, R131). -/
def execOrMemImm (addr : Word) (v : Imm) (s : State) : Result State :=
  binary .or (binOperands (.memImm addr v) s) s

/-! ### XOR (R203) -/

/-- `XOR reg, reg` (R203, R131). -/
def execXorRegReg (p : RegPair) (s : State) : Result State :=
  binary .xor (binOperands (.regReg p) s) s

/-- `XOR reg, [BX]` (R203, R131). -/
def execXorRegBx (d : Reg) (s : State) : Result State :=
  binary .xor (binOperands (.regBx d) s) s

/-- `XOR reg, [addr]` (R203, R131). -/
def execXorRegMem (d : Reg) (addr : Word) (s : State) : Result State :=
  binary .xor (binOperands (.regMem d addr) s) s

/-- `XOR [BX], reg` (R203, R131). -/
def execXorBxReg (r : Reg) (s : State) : Result State :=
  binary .xor (binOperands (.bxReg r) s) s

/-- `XOR [addr], reg` (R203, R131). -/
def execXorMemReg (addr : Word) (r : Reg) (s : State) : Result State :=
  binary .xor (binOperands (.memReg addr r) s) s

/-- `XOR reg, imm` (R203, R131). -/
def execXorRegImm (q : RegImm) (s : State) : Result State :=
  binary .xor (binOperands (.regImm q) s) s

/-- `XOR [BX], imm` (R203, R131). -/
def execXorBxImm (v : Imm) (s : State) : Result State :=
  binary .xor (binOperands (.bxImm v) s) s

/-- `XOR [addr], imm` (R203, R131). -/
def execXorMemImm (addr : Word) (v : Imm) (s : State) : Result State :=
  binary .xor (binOperands (.memImm addr v) s) s

/-! ### NOT (R204) -/

/-- `NOT reg` (R204, R134). -/
def execNotReg (r : Reg) (s : State) : Result State :=
  unary .not (unOperand (.reg r) s) s

/-- `NOT [BX]` (R204, R134). -/
def execNotBx (w : Size) (s : State) : Result State :=
  unary .not (unOperand (.bx w) s) s

/-- `NOT [addr]` (R204, R134). -/
def execNotMem (w : Size) (addr : Word) (s : State) : Result State :=
  unary .not (unOperand (.mem w addr) s) s

end Sys2Proof.Machine
end

