-- ==== Sys2Proof/Machine/Stack.lean ====
section
/-! DEFINITION. The stack instructions (43_stack): PUSH POP PUSHF POPF. -/

namespace Sys2Proof.Machine

/-- `PUSH r16` (R217): the operand is read before `SP` moves (D30). -/
def execPush (r : Reg16) (s : State) : Result State := s.push16 (s.reg16 r)

/-- `POP r16` (R218): the destination is written after `SP` moves (D30). -/
def execPop (r : Reg16) (s : State) : Result State :=
  andThen s.pop16 fun (v, s1) => .next (s1.setReg16 r v)

/-- `PUSHF` (R219). -/
def execPushf (s : State) : Result State := s.push16 s.flags.toWord

/-- `POPF` (R220). -/
def execPopf (s : State) : Result State :=
  andThen s.pop16 fun (w, s1) => .next (s1.loadFlags w)

end Sys2Proof.Machine
end

