-- ==== Sys2Proof/Machine/Dispatch.lean ====
section
/-! DEFINITION. The dispatch: one arm per instruction, one direct call of its meaning each. -/

namespace Sys2Proof.Machine

def exec (i : Instr) (s : State) : Host.Outcome State Fault Refusal :=
  match i with
  | .movRegReg p => Sys2Proof.Machine.execMovRegReg p s
  | .movRegBx d => Sys2Proof.Machine.execMovRegBx d s
  | .movRegMem d addr => Sys2Proof.Machine.execMovRegMem d addr s
  | .movBxReg r => Sys2Proof.Machine.execMovBxReg r s
  | .movMemReg addr r => Sys2Proof.Machine.execMovMemReg addr r s
  | .movRegImm q => Sys2Proof.Machine.execMovRegImm q s
  | .movBxImm v => Sys2Proof.Machine.execMovBxImm v s
  | .movMemImm addr v => Sys2Proof.Machine.execMovMemImm addr v s
  | .addRegReg p => Sys2Proof.Machine.execAddRegReg p s
  | .addRegBx d => Sys2Proof.Machine.execAddRegBx d s
  | .addRegMem d addr => Sys2Proof.Machine.execAddRegMem d addr s
  | .addBxReg r => Sys2Proof.Machine.execAddBxReg r s
  | .addMemReg addr r => Sys2Proof.Machine.execAddMemReg addr r s
  | .addRegImm q => Sys2Proof.Machine.execAddRegImm q s
  | .addBxImm v => Sys2Proof.Machine.execAddBxImm v s
  | .addMemImm addr v => Sys2Proof.Machine.execAddMemImm addr v s
  | .adcRegReg p => Sys2Proof.Machine.execAdcRegReg p s
  | .adcRegBx d => Sys2Proof.Machine.execAdcRegBx d s
  | .adcRegMem d addr => Sys2Proof.Machine.execAdcRegMem d addr s
  | .adcBxReg r => Sys2Proof.Machine.execAdcBxReg r s
  | .adcMemReg addr r => Sys2Proof.Machine.execAdcMemReg addr r s
  | .adcRegImm q => Sys2Proof.Machine.execAdcRegImm q s
  | .adcBxImm v => Sys2Proof.Machine.execAdcBxImm v s
  | .adcMemImm addr v => Sys2Proof.Machine.execAdcMemImm addr v s
  | .subRegReg p => Sys2Proof.Machine.execSubRegReg p s
  | .subRegBx d => Sys2Proof.Machine.execSubRegBx d s
  | .subRegMem d addr => Sys2Proof.Machine.execSubRegMem d addr s
  | .subBxReg r => Sys2Proof.Machine.execSubBxReg r s
  | .subMemReg addr r => Sys2Proof.Machine.execSubMemReg addr r s
  | .subRegImm q => Sys2Proof.Machine.execSubRegImm q s
  | .subBxImm v => Sys2Proof.Machine.execSubBxImm v s
  | .subMemImm addr v => Sys2Proof.Machine.execSubMemImm addr v s
  | .sbbRegReg p => Sys2Proof.Machine.execSbbRegReg p s
  | .sbbRegBx d => Sys2Proof.Machine.execSbbRegBx d s
  | .sbbRegMem d addr => Sys2Proof.Machine.execSbbRegMem d addr s
  | .sbbBxReg r => Sys2Proof.Machine.execSbbBxReg r s
  | .sbbMemReg addr r => Sys2Proof.Machine.execSbbMemReg addr r s
  | .sbbRegImm q => Sys2Proof.Machine.execSbbRegImm q s
  | .sbbBxImm v => Sys2Proof.Machine.execSbbBxImm v s
  | .sbbMemImm addr v => Sys2Proof.Machine.execSbbMemImm addr v s
  | .cmpRegReg p => Sys2Proof.Machine.execCmpRegReg p s
  | .cmpRegBx d => Sys2Proof.Machine.execCmpRegBx d s
  | .cmpRegMem d addr => Sys2Proof.Machine.execCmpRegMem d addr s
  | .cmpBxReg r => Sys2Proof.Machine.execCmpBxReg r s
  | .cmpMemReg addr r => Sys2Proof.Machine.execCmpMemReg addr r s
  | .cmpRegImm q => Sys2Proof.Machine.execCmpRegImm q s
  | .cmpBxImm v => Sys2Proof.Machine.execCmpBxImm v s
  | .cmpMemImm addr v => Sys2Proof.Machine.execCmpMemImm addr v s
  | .andRegReg p => Sys2Proof.Machine.execAndRegReg p s
  | .andRegBx d => Sys2Proof.Machine.execAndRegBx d s
  | .andRegMem d addr => Sys2Proof.Machine.execAndRegMem d addr s
  | .andBxReg r => Sys2Proof.Machine.execAndBxReg r s
  | .andMemReg addr r => Sys2Proof.Machine.execAndMemReg addr r s
  | .andRegImm q => Sys2Proof.Machine.execAndRegImm q s
  | .andBxImm v => Sys2Proof.Machine.execAndBxImm v s
  | .andMemImm addr v => Sys2Proof.Machine.execAndMemImm addr v s
  | .orRegReg p => Sys2Proof.Machine.execOrRegReg p s
  | .orRegBx d => Sys2Proof.Machine.execOrRegBx d s
  | .orRegMem d addr => Sys2Proof.Machine.execOrRegMem d addr s
  | .orBxReg r => Sys2Proof.Machine.execOrBxReg r s
  | .orMemReg addr r => Sys2Proof.Machine.execOrMemReg addr r s
  | .orRegImm q => Sys2Proof.Machine.execOrRegImm q s
  | .orBxImm v => Sys2Proof.Machine.execOrBxImm v s
  | .orMemImm addr v => Sys2Proof.Machine.execOrMemImm addr v s
  | .xorRegReg p => Sys2Proof.Machine.execXorRegReg p s
  | .xorRegBx d => Sys2Proof.Machine.execXorRegBx d s
  | .xorRegMem d addr => Sys2Proof.Machine.execXorRegMem d addr s
  | .xorBxReg r => Sys2Proof.Machine.execXorBxReg r s
  | .xorMemReg addr r => Sys2Proof.Machine.execXorMemReg addr r s
  | .xorRegImm q => Sys2Proof.Machine.execXorRegImm q s
  | .xorBxImm v => Sys2Proof.Machine.execXorBxImm v s
  | .xorMemImm addr v => Sys2Proof.Machine.execXorMemImm addr v s
  | .incReg r => Sys2Proof.Machine.execIncReg r s
  | .incBx w => Sys2Proof.Machine.execIncBx w s
  | .incMem w addr => Sys2Proof.Machine.execIncMem w addr s
  | .decReg r => Sys2Proof.Machine.execDecReg r s
  | .decBx w => Sys2Proof.Machine.execDecBx w s
  | .decMem w addr => Sys2Proof.Machine.execDecMem w addr s
  | .negReg r => Sys2Proof.Machine.execNegReg r s
  | .negBx w => Sys2Proof.Machine.execNegBx w s
  | .negMem w addr => Sys2Proof.Machine.execNegMem w addr s
  | .notReg r => Sys2Proof.Machine.execNotReg r s
  | .notBx w => Sys2Proof.Machine.execNotBx w s
  | .notMem w addr => Sys2Proof.Machine.execNotMem w addr s
  | .nop => Sys2Proof.Machine.execNop s
  | .hlt => Sys2Proof.Machine.execHlt s
  | .cli => Sys2Proof.Machine.execCli s
  | .sti => Sys2Proof.Machine.execSti s
  | .pushf => Sys2Proof.Machine.execPushf s
  | .popf => Sys2Proof.Machine.execPopf s
  | .ret => Sys2Proof.Machine.execRet s
  | .iret => Sys2Proof.Machine.execIret s
  | .push r => Sys2Proof.Machine.execPush r s
  | .pop r => Sys2Proof.Machine.execPop r s
  | .jmp addr => Sys2Proof.Machine.execJmp addr s
  | .call addr => Sys2Proof.Machine.execCall addr s
  | .jz addr => Sys2Proof.Machine.execJz addr s
  | .jnz addr => Sys2Proof.Machine.execJnz addr s
  | .jc addr => Sys2Proof.Machine.execJc addr s
  | .jnc addr => Sys2Proof.Machine.execJnc addr s
  | .js addr => Sys2Proof.Machine.execJs addr s
  | .jns addr => Sys2Proof.Machine.execJns addr s
  | .jo addr => Sys2Proof.Machine.execJo addr s
  | .jno addr => Sys2Proof.Machine.execJno addr s
  | .intN n => Sys2Proof.Machine.execIntN n s
  | .int0 => Sys2Proof.Machine.execInt0 s
  | .int3 => Sys2Proof.Machine.execInt3 s
  | .int6 => Sys2Proof.Machine.execInt6 s
  | .int7 => Sys2Proof.Machine.execInt7 s
  | .inPort w port => Sys2Proof.Machine.execInPort w port s
  | .inDx w => Sys2Proof.Machine.execInDx w s
  | .outPort w port => Sys2Proof.Machine.execOutPort w port s
  | .outDx w => Sys2Proof.Machine.execOutDx w s

end Sys2Proof.Machine
end

