-- ==== Sys2Proof/WellFormed.lean ====
section
/-! DEFINITION. Which terms of `Instr` are instructions of the opcode map.  Sizes and register indices cannot be
ill-formed (Syntax.lean), so one check is left: the row `INT n` excludes the four numbers that have rows of their own
(46_misc R245). -/

namespace Sys2Proof

/-- The numbers of the special INTs (R14, R245). -/
def specialInts : List Byte := [0#8, 3#8, 6#8, 7#8]

/-- `i` is a row of the opcode table with operands that row admits. -/
def Instr.wf : Instr → Bool
  | .intN n => !specialInts.contains n
  | _ => true

/-- `Instr.wf` as a proposition. -/
abbrev WellFormed (i : Instr) : Prop := i.wf = true

end Sys2Proof
end

