-- ==== Sys2Proof/Decode.lean ====
section
/-! DEFINITION. The instruction decoder and the encoder (30_encoding), both written from the encoding tables of the spec.
The decoder is total on any list of bytes: it gives an instruction and the bytes after it, or says that the bytes end too
early, or rejects them by name (R141). -/

namespace Sys2Proof

/-- Why bytes are no instruction (R141). -/
inductive Illegal where
  /-- A first byte R140 marks reserved. -/
  | reservedFirstByte
  /-- A Unary selector R134 marks reserved. -/
  | reservedSelector
  /-- A PUSH or POP register index 101..111 (R136). -/
  | reservedStackRegister
  /-- A Binary pair (mm, k) that R131 does not list. -/
  | reservedForm
  /-- A Binary field R131 requires to be 000 is not. -/
  | nonzeroField
  /-- A register index that fails `ValidReg` (R126). -/
  | invalidRegister
  deriving DecidableEq, Repr

/-- What the decoder answers. -/
inductive Decoded where
  /-- An instruction, and the bytes after it. -/
  | ok (i : Instr) (rest : List Byte)
  /-- The bytes end inside the instruction. -/
  | truncated
  /-- The bytes are no instruction. -/
  | illegal (why : Illegal)
  deriving DecidableEq, Repr

/-! ### Fields -/

/-- The byte register of an index (R126, w = 0). -/
def reg8OfIndex (i : BitVec 3) : Reg8 :=
  match i.toNat with
  | 0 => .al
  | 1 => .bl
  | 2 => .cl
  | 3 => .dl
  | 4 => .ah
  | 5 => .bh
  | 6 => .ch
  | _ => .dh

/-- The word register of an index, if there is one (R126, w = 1). -/
def reg16OfIndex (i : BitVec 3) : Option Reg16 :=
  match i.toNat with
  | 0 => some .ax
  | 1 => some .bx
  | 2 => some .cx
  | 3 => some .dx
  | 4 => some .sp
  | _ => none

/-- `RegName(w, i)` where `ValidReg(w, i)` (R126). -/
def regOfIndex (w : Size) (i : BitVec 3) : Option Reg :=
  match w with
  | .byte => some (.byte (reg8OfIndex i))
  | .word => (reg16OfIndex i).map .word

/-- Two registers of one size. -/
def regPairOfIndex (w : Size) (i j : BitVec 3) : Option RegPair :=
  match w with
  | .byte => some (.byte (reg8OfIndex i) (reg8OfIndex j))
  | .word =>
    match reg16OfIndex i, reg16OfIndex j with
    | some d, some s => some (.word d s)
    | _, _ => none

/-- A size bit. -/
def sizeOfBit (b : Bool) : Size := if b then .word else .byte

/-- `Fetch16()` on a list of bytes: low byte first (R121, R124). -/
def takeWord (bs : List Byte) (k : Word → List Byte → Decoded) : Decoded :=
  match bs with
  | lo :: hi :: rest => k (joinBytes lo hi) rest
  | _ => .truncated

/-- `Fetch8()` on a list of bytes. -/
def takeByte (bs : List Byte) (k : Byte → List Byte → Decoded) : Decoded :=
  match bs with
  | b :: rest => k b rest
  | [] => .truncated

/-- The immediate of size `w` (R132). -/
def takeImm (w : Size) (bs : List Byte) (k : Imm → List Byte → Decoded) : Decoded :=
  match w with
  | .byte => takeByte bs fun v rest => k (.byte v) rest
  | .word => takeWord bs fun v rest => k (.word v) rest

/-- The register of a field, or the rejection. -/
def withReg (w : Size) (i : BitVec 3) (k : Reg → Decoded) : Decoded :=
  match regOfIndex w i with
  | some r => k r
  | none => .illegal .invalidRegister

/-- The rest of a form whose field `f` R131 requires to be 000. -/
def requireZero (f : BitVec 3) (k : Decoded) : Decoded :=
  if f = 0#3 then k else .illegal .nonzeroField

/-- `op reg, imm` once the immediate is read. -/
def regImmOf (d : Reg) (v : Imm) : Option RegImm :=
  match d, v with
  | .byte d, .byte v => some (.byte d v)
  | .word d, .word v => some (.word d v)
  | _, _ => none

/-! ### The formats -/

/-- `BINOP` (R128): the operation of `B0[6:3]`. -/
def binOpOf (oooo : BitVec 4) : Option BinOp :=
  match oooo.toNat with
  | 0 => some .mov
  | 1 => some .add
  | 2 => some .adc
  | 3 => some .sub
  | 4 => some .sbb
  | 5 => some .cmp
  | 6 => some .and
  | 7 => some .or
  | 8 => some .xor
  | _ => none

/-- The second byte of format BIN and what follows it (R129, R131): `mm` with `k`, the fields `R` and `S`. -/
def decodeForm (op : BinOp) (w : Size) (mm : BitVec 2) (b1 : Byte) (rest : List Byte) : Decoded :=
  let k : BitVec 2 := b1.extractLsb' 6 2
  let r : BitVec 3 := b1.extractLsb' 3 3
  let s : BitVec 3 := b1.extractLsb' 0 3
  match mm.toNat, k.toNat with
  | 0, 0 =>
    match regPairOfIndex w r s with
    | some p => .ok (.ofBin op (.regReg p)) rest
    | none => .illegal .invalidRegister
  | 1, 1 => requireZero s (withReg w r fun d => .ok (.ofBin op (.regBx d)) rest)
  | 1, 2 => requireZero s (withReg w r fun d => takeWord rest fun addr rest => .ok (.ofBin op (.regMem d addr)) rest)
  | 2, 1 => requireZero s (withReg w r fun d => .ok (.ofBin op (.bxReg d)) rest)
  | 2, 2 => requireZero s (withReg w r fun d => takeWord rest fun addr rest => .ok (.ofBin op (.memReg addr d)) rest)
  | 3, 0 =>
    requireZero s (withReg w r fun d => takeImm w rest fun v rest =>
      match regImmOf d v with
      | some q => .ok (.ofBin op (.regImm q)) rest
      | none => .illegal .invalidRegister)
  | 3, 1 => requireZero r (requireZero s (takeImm w rest fun v rest => .ok (.ofBin op (.bxImm v)) rest))
  | 3, 2 =>
    requireZero r (requireZero s (takeWord rest fun addr rest => takeImm w rest fun v rest =>
      .ok (.ofBin op (.memImm addr v)) rest))
  | _, _ => .illegal .reservedForm

/-- Format BIN (R127 to R131). -/
def decodeBin (b0 : Byte) (rest : List Byte) : Decoded :=
  match binOpOf (b0.extractLsb' 3 4) with
  | some op => takeByte rest fun b1 rest => decodeForm op (sizeOfBit (b0.getLsbD 2)) (b0.extractLsb' 0 2) b1 rest
  | none => .illegal .reservedFirstByte

/-- Format Z (R135). -/
def decodeZero (b0 : Byte) (rest : List Byte) : Decoded :=
  match (b0.extractLsb' 0 3).toNat with
  | 0 => .ok .nop rest
  | 1 => .ok .hlt rest
  | 2 => .ok .cli rest
  | 3 => .ok .sti rest
  | 4 => .ok .pushf rest
  | 5 => .ok .popf rest
  | 6 => .ok .ret rest
  | _ => .ok .iret rest

/-- Format STK (R136). -/
def decodeStack (b0 : Byte) (rest : List Byte) : Decoded :=
  match reg16OfIndex (b0.extractLsb' 0 3) with
  | some r => .ok (if b0.getLsbD 3 then .pop r else .push r) rest
  | none => .illegal .reservedStackRegister

/-- Format J (R137): `JOP` at `B0[3:0]`. -/
def decodeJump (b0 : Byte) (rest : List Byte) : Decoded :=
  takeWord rest fun addr rest =>
    match (b0.extractLsb' 0 4).toNat with
    | 0 => .ok (.jmp addr) rest
    | 1 => .ok (.call addr) rest
    | 2 => .ok (.jz addr) rest
    | 3 => .ok (.jnz addr) rest
    | 4 => .ok (.jc addr) rest
    | 5 => .ok (.jnc addr) rest
    | 6 => .ok (.js addr) rest
    | 7 => .ok (.jns addr) rest
    | 8 => .ok (.jo addr) rest
    | _ => .ok (.jno addr) rest

/-- Format INT (R138), the number split as R245 does. -/
def decodeInt (rest : List Byte) : Decoded :=
  takeByte rest fun n rest =>
    if n = 0#8 then .ok .int0 rest
    else if n = 3#8 then .ok .int3 rest
    else if n = 6#8 then .ok .int6 rest
    else if n = 7#8 then .ok .int7 rest
    else .ok (.intN n) rest

/-- Format IO (R139): `d` = `B0[2]`, `w` = `B0[1]`, `p` = `B0[0]`. -/
def decodeIo (b0 : Byte) (rest : List Byte) : Decoded :=
  let w := sizeOfBit (b0.getLsbD 1)
  if b0.getLsbD 0 then .ok (if b0.getLsbD 2 then .outDx w else .inDx w) rest
  else takeByte rest fun port rest => .ok (if b0.getLsbD 2 then .outPort w port else .inPort w port) rest

/-- `UNOP` (R133): the operation of `B0[6:5]`. -/
def unOpOf (oo : BitVec 2) : UnOp :=
  match oo.toNat with
  | 0 => .inc
  | 1 => .dec
  | 2 => .neg
  | _ => .not

/-- Format UN (R133, R134). -/
def decodeUn (b0 : Byte) (rest : List Byte) : Decoded :=
  let op := unOpOf (b0.extractLsb' 5 2)
  let w := sizeOfBit (b0.getLsbD 4)
  if b0.getLsbD 3 = false then withReg w (b0.extractLsb' 0 3) fun r => .ok (.ofUn op (.reg r)) rest
  else if b0.extractLsb' 0 3 = 0#3 then .ok (.ofUn op (.bx w)) rest
  else if b0.extractLsb' 0 3 = 1#3 then takeWord rest fun addr rest => .ok (.ofUn op (.mem w addr)) rest
  else .illegal .reservedSelector

/-- `Decode()` on the bytes from `IP` on (R140, R144).  A rejection is given as soon as the byte that decides it is
read, so before a later missing byte is noticed (R141). -/
def decode (bytes : List Byte) : Decoded :=
  takeByte bytes fun b0 rest =>
    let n := b0.toNat
    if n ≤ 0x47 then decodeBin b0 rest
    else if n ≤ 0x4F then decodeZero b0 rest
    else if n ≤ 0x5F then decodeStack b0 rest
    else if n ≤ 0x69 then decodeJump b0 rest
    else if n = 0x6A then decodeInt rest
    else if n ≤ 0x6F then .illegal .reservedFirstByte
    else if n ≤ 0x77 then decodeIo b0 rest
    else if n ≤ 0x7F then .illegal .reservedFirstByte
    else decodeUn b0 rest

/-! ### The encoder -/

/-- The index of a byte register (R126). -/
def Reg8.index : Reg8 → BitVec 3
  | .al => 0 | .bl => 1 | .cl => 2 | .dl => 3 | .ah => 4 | .bh => 5 | .ch => 6 | .dh => 7

/-- The index of a word register (R126). -/
def Reg16.index : Reg16 → BitVec 3
  | .ax => 0 | .bx => 1 | .cx => 2 | .dx => 3 | .sp => 4

/-- The size of a register. -/
def Reg.size : Reg → Size
  | .byte _ => .byte
  | .word _ => .word

/-- The index of a register. -/
def Reg.index : Reg → BitVec 3
  | .byte r => r.index
  | .word r => r.index

/-- The size of an immediate. -/
def Imm.size : Imm → Size
  | .byte _ => .byte
  | .word _ => .word

/-- The size bit (R155). -/
def Size.bit : Size → BitVec 1
  | .byte => 0
  | .word => 1

/-- The two bytes of a word, low byte first (R124). -/
def wordBytes (v : Word) : List Byte := [loByte v, hiByte v]

/-- The bytes of an immediate (R132). -/
def Imm.bytes : Imm → List Byte
  | .byte v => [v]
  | .word v => wordBytes v

/-- `oooo` (R128). -/
def BinOp.code : BinOp → BitVec 4
  | .mov => 0 | .add => 1 | .adc => 2 | .sub => 3 | .sbb => 4 | .cmp => 5 | .and => 6 | .or => 7 | .xor => 8

/-- `oo` (R133). -/
def UnOp.code : UnOp → BitVec 2
  | .inc => 0 | .dec => 1 | .neg => 2 | .not => 3

/-- The two opcode bytes of format BIN: `0oooowmm kkRRRSSS` (R127, R129). -/
def binBytes (op : BinOp) (w : Size) (mm k : BitVec 2) (r s : BitVec 3) : List Byte :=
  [0#1 ++ op.code ++ w.bit ++ mm, k ++ r ++ s]

/-- The bytes of a Binary instruction: B0, B1, then `addr`, then the immediate (R124, R131). -/
def encodeBin (op : BinOp) : BinForm → List Byte
  | .regReg (.byte d s) => binBytes op .byte 0 0 d.index s.index
  | .regReg (.word d s) => binBytes op .word 0 0 d.index s.index
  | .regBx d => binBytes op d.size 1 1 d.index 0
  | .regMem d addr => binBytes op d.size 1 2 d.index 0 ++ wordBytes addr
  | .bxReg r => binBytes op r.size 2 1 r.index 0
  | .memReg addr r => binBytes op r.size 2 2 r.index 0 ++ wordBytes addr
  | .regImm (.byte d v) => binBytes op .byte 3 0 d.index 0 ++ [v]
  | .regImm (.word d v) => binBytes op .word 3 0 d.index 0 ++ wordBytes v
  | .bxImm v => binBytes op v.size 3 1 0 0 ++ v.bytes
  | .memImm addr v => binBytes op v.size 3 2 0 0 ++ wordBytes addr ++ v.bytes

/-- The first byte of format UN: `1oowssss` (R133). -/
def unByte (op : UnOp) (w : Size) (ssss : BitVec 4) : Byte := 1#1 ++ op.code ++ w.bit ++ ssss

/-- The bytes of a Unary instruction (R133, R134). -/
def encodeUn (op : UnOp) : UnForm → List Byte
  | .reg r => [unByte op r.size (0#1 ++ r.index)]
  | .bx w => [unByte op w 8#4]
  | .mem w addr => unByte op w 9#4 :: wordBytes addr

/-- The first byte of format IO: `01110dwp` (R139). -/
def ioByte (d : BitVec 1) (w : Size) (p : BitVec 1) : Byte := 0b01110#5 ++ d ++ w.bit ++ p

/-- The bytes of an instruction (R123, R124). -/
def encode : Instr → List Byte
  | .movRegReg p => encodeBin .mov (.regReg p)
  | .movRegBx d => encodeBin .mov (.regBx d)
  | .movRegMem d addr => encodeBin .mov (.regMem d addr)
  | .movBxReg r => encodeBin .mov (.bxReg r)
  | .movMemReg addr r => encodeBin .mov (.memReg addr r)
  | .movRegImm q => encodeBin .mov (.regImm q)
  | .movBxImm v => encodeBin .mov (.bxImm v)
  | .movMemImm addr v => encodeBin .mov (.memImm addr v)
  | .addRegReg p => encodeBin .add (.regReg p)
  | .addRegBx d => encodeBin .add (.regBx d)
  | .addRegMem d addr => encodeBin .add (.regMem d addr)
  | .addBxReg r => encodeBin .add (.bxReg r)
  | .addMemReg addr r => encodeBin .add (.memReg addr r)
  | .addRegImm q => encodeBin .add (.regImm q)
  | .addBxImm v => encodeBin .add (.bxImm v)
  | .addMemImm addr v => encodeBin .add (.memImm addr v)
  | .adcRegReg p => encodeBin .adc (.regReg p)
  | .adcRegBx d => encodeBin .adc (.regBx d)
  | .adcRegMem d addr => encodeBin .adc (.regMem d addr)
  | .adcBxReg r => encodeBin .adc (.bxReg r)
  | .adcMemReg addr r => encodeBin .adc (.memReg addr r)
  | .adcRegImm q => encodeBin .adc (.regImm q)
  | .adcBxImm v => encodeBin .adc (.bxImm v)
  | .adcMemImm addr v => encodeBin .adc (.memImm addr v)
  | .subRegReg p => encodeBin .sub (.regReg p)
  | .subRegBx d => encodeBin .sub (.regBx d)
  | .subRegMem d addr => encodeBin .sub (.regMem d addr)
  | .subBxReg r => encodeBin .sub (.bxReg r)
  | .subMemReg addr r => encodeBin .sub (.memReg addr r)
  | .subRegImm q => encodeBin .sub (.regImm q)
  | .subBxImm v => encodeBin .sub (.bxImm v)
  | .subMemImm addr v => encodeBin .sub (.memImm addr v)
  | .sbbRegReg p => encodeBin .sbb (.regReg p)
  | .sbbRegBx d => encodeBin .sbb (.regBx d)
  | .sbbRegMem d addr => encodeBin .sbb (.regMem d addr)
  | .sbbBxReg r => encodeBin .sbb (.bxReg r)
  | .sbbMemReg addr r => encodeBin .sbb (.memReg addr r)
  | .sbbRegImm q => encodeBin .sbb (.regImm q)
  | .sbbBxImm v => encodeBin .sbb (.bxImm v)
  | .sbbMemImm addr v => encodeBin .sbb (.memImm addr v)
  | .cmpRegReg p => encodeBin .cmp (.regReg p)
  | .cmpRegBx d => encodeBin .cmp (.regBx d)
  | .cmpRegMem d addr => encodeBin .cmp (.regMem d addr)
  | .cmpBxReg r => encodeBin .cmp (.bxReg r)
  | .cmpMemReg addr r => encodeBin .cmp (.memReg addr r)
  | .cmpRegImm q => encodeBin .cmp (.regImm q)
  | .cmpBxImm v => encodeBin .cmp (.bxImm v)
  | .cmpMemImm addr v => encodeBin .cmp (.memImm addr v)
  | .andRegReg p => encodeBin .and (.regReg p)
  | .andRegBx d => encodeBin .and (.regBx d)
  | .andRegMem d addr => encodeBin .and (.regMem d addr)
  | .andBxReg r => encodeBin .and (.bxReg r)
  | .andMemReg addr r => encodeBin .and (.memReg addr r)
  | .andRegImm q => encodeBin .and (.regImm q)
  | .andBxImm v => encodeBin .and (.bxImm v)
  | .andMemImm addr v => encodeBin .and (.memImm addr v)
  | .orRegReg p => encodeBin .or (.regReg p)
  | .orRegBx d => encodeBin .or (.regBx d)
  | .orRegMem d addr => encodeBin .or (.regMem d addr)
  | .orBxReg r => encodeBin .or (.bxReg r)
  | .orMemReg addr r => encodeBin .or (.memReg addr r)
  | .orRegImm q => encodeBin .or (.regImm q)
  | .orBxImm v => encodeBin .or (.bxImm v)
  | .orMemImm addr v => encodeBin .or (.memImm addr v)
  | .xorRegReg p => encodeBin .xor (.regReg p)
  | .xorRegBx d => encodeBin .xor (.regBx d)
  | .xorRegMem d addr => encodeBin .xor (.regMem d addr)
  | .xorBxReg r => encodeBin .xor (.bxReg r)
  | .xorMemReg addr r => encodeBin .xor (.memReg addr r)
  | .xorRegImm q => encodeBin .xor (.regImm q)
  | .xorBxImm v => encodeBin .xor (.bxImm v)
  | .xorMemImm addr v => encodeBin .xor (.memImm addr v)
  | .incReg r => encodeUn .inc (.reg r)
  | .incBx w => encodeUn .inc (.bx w)
  | .incMem w addr => encodeUn .inc (.mem w addr)
  | .decReg r => encodeUn .dec (.reg r)
  | .decBx w => encodeUn .dec (.bx w)
  | .decMem w addr => encodeUn .dec (.mem w addr)
  | .negReg r => encodeUn .neg (.reg r)
  | .negBx w => encodeUn .neg (.bx w)
  | .negMem w addr => encodeUn .neg (.mem w addr)
  | .notReg r => encodeUn .not (.reg r)
  | .notBx w => encodeUn .not (.bx w)
  | .notMem w addr => encodeUn .not (.mem w addr)
  | .nop => [0x48#8]
  | .hlt => [0x49#8]
  | .cli => [0x4A#8]
  | .sti => [0x4B#8]
  | .pushf => [0x4C#8]
  | .popf => [0x4D#8]
  | .ret => [0x4E#8]
  | .iret => [0x4F#8]
  | .push r => [0b01010#5 ++ r.index]
  | .pop r => [0b01011#5 ++ r.index]
  | .jmp addr => 0x60#8 :: wordBytes addr
  | .call addr => 0x61#8 :: wordBytes addr
  | .jz addr => 0x62#8 :: wordBytes addr
  | .jnz addr => 0x63#8 :: wordBytes addr
  | .jc addr => 0x64#8 :: wordBytes addr
  | .jnc addr => 0x65#8 :: wordBytes addr
  | .js addr => 0x66#8 :: wordBytes addr
  | .jns addr => 0x67#8 :: wordBytes addr
  | .jo addr => 0x68#8 :: wordBytes addr
  | .jno addr => 0x69#8 :: wordBytes addr
  | .intN n => [0x6A#8, n]
  | .int0 => [0x6A#8, 0#8]
  | .int3 => [0x6A#8, 3#8]
  | .int6 => [0x6A#8, 6#8]
  | .int7 => [0x6A#8, 7#8]
  | .inPort w port => [ioByte 0 w 0, port]
  | .inDx w => [ioByte 0 w 1]
  | .outPort w port => [ioByte 1 w 0, port]
  | .outDx w => [ioByte 1 w 1]

/-! ### Length -/

/-- The size of a word field in bytes. -/
def Size.bytes : Size → Nat
  | .byte => 1
  | .word => 2

/-- `Length` of a Binary form (R131, R143). -/
def BinForm.length : BinForm → Nat
  | .regReg _ => 2
  | .regBx _ => 2
  | .regMem _ _ => 4
  | .bxReg _ => 2
  | .memReg _ _ => 4
  | .regImm (.byte _ _) => 3
  | .regImm (.word _ _) => 4
  | .bxImm v => 2 + v.size.bytes
  | .memImm _ v => 4 + v.size.bytes

/-- `Length` of a Unary form (R134, R143). -/
def UnForm.length : UnForm → Nat
  | .reg _ => 1
  | .bx _ => 1
  | .mem _ _ => 3

/-- `Length(B0, B1)` of an instruction: how many bytes it has (R143). -/
def Instr.length : Instr → Nat
  | .movRegReg p => (BinForm.regReg p).length
  | .movRegBx d => (BinForm.regBx d).length
  | .movRegMem d addr => (BinForm.regMem d addr).length
  | .movBxReg r => (BinForm.bxReg r).length
  | .movMemReg addr r => (BinForm.memReg addr r).length
  | .movRegImm q => (BinForm.regImm q).length
  | .movBxImm v => (BinForm.bxImm v).length
  | .movMemImm addr v => (BinForm.memImm addr v).length
  | .addRegReg p => (BinForm.regReg p).length
  | .addRegBx d => (BinForm.regBx d).length
  | .addRegMem d addr => (BinForm.regMem d addr).length
  | .addBxReg r => (BinForm.bxReg r).length
  | .addMemReg addr r => (BinForm.memReg addr r).length
  | .addRegImm q => (BinForm.regImm q).length
  | .addBxImm v => (BinForm.bxImm v).length
  | .addMemImm addr v => (BinForm.memImm addr v).length
  | .adcRegReg p => (BinForm.regReg p).length
  | .adcRegBx d => (BinForm.regBx d).length
  | .adcRegMem d addr => (BinForm.regMem d addr).length
  | .adcBxReg r => (BinForm.bxReg r).length
  | .adcMemReg addr r => (BinForm.memReg addr r).length
  | .adcRegImm q => (BinForm.regImm q).length
  | .adcBxImm v => (BinForm.bxImm v).length
  | .adcMemImm addr v => (BinForm.memImm addr v).length
  | .subRegReg p => (BinForm.regReg p).length
  | .subRegBx d => (BinForm.regBx d).length
  | .subRegMem d addr => (BinForm.regMem d addr).length
  | .subBxReg r => (BinForm.bxReg r).length
  | .subMemReg addr r => (BinForm.memReg addr r).length
  | .subRegImm q => (BinForm.regImm q).length
  | .subBxImm v => (BinForm.bxImm v).length
  | .subMemImm addr v => (BinForm.memImm addr v).length
  | .sbbRegReg p => (BinForm.regReg p).length
  | .sbbRegBx d => (BinForm.regBx d).length
  | .sbbRegMem d addr => (BinForm.regMem d addr).length
  | .sbbBxReg r => (BinForm.bxReg r).length
  | .sbbMemReg addr r => (BinForm.memReg addr r).length
  | .sbbRegImm q => (BinForm.regImm q).length
  | .sbbBxImm v => (BinForm.bxImm v).length
  | .sbbMemImm addr v => (BinForm.memImm addr v).length
  | .cmpRegReg p => (BinForm.regReg p).length
  | .cmpRegBx d => (BinForm.regBx d).length
  | .cmpRegMem d addr => (BinForm.regMem d addr).length
  | .cmpBxReg r => (BinForm.bxReg r).length
  | .cmpMemReg addr r => (BinForm.memReg addr r).length
  | .cmpRegImm q => (BinForm.regImm q).length
  | .cmpBxImm v => (BinForm.bxImm v).length
  | .cmpMemImm addr v => (BinForm.memImm addr v).length
  | .andRegReg p => (BinForm.regReg p).length
  | .andRegBx d => (BinForm.regBx d).length
  | .andRegMem d addr => (BinForm.regMem d addr).length
  | .andBxReg r => (BinForm.bxReg r).length
  | .andMemReg addr r => (BinForm.memReg addr r).length
  | .andRegImm q => (BinForm.regImm q).length
  | .andBxImm v => (BinForm.bxImm v).length
  | .andMemImm addr v => (BinForm.memImm addr v).length
  | .orRegReg p => (BinForm.regReg p).length
  | .orRegBx d => (BinForm.regBx d).length
  | .orRegMem d addr => (BinForm.regMem d addr).length
  | .orBxReg r => (BinForm.bxReg r).length
  | .orMemReg addr r => (BinForm.memReg addr r).length
  | .orRegImm q => (BinForm.regImm q).length
  | .orBxImm v => (BinForm.bxImm v).length
  | .orMemImm addr v => (BinForm.memImm addr v).length
  | .xorRegReg p => (BinForm.regReg p).length
  | .xorRegBx d => (BinForm.regBx d).length
  | .xorRegMem d addr => (BinForm.regMem d addr).length
  | .xorBxReg r => (BinForm.bxReg r).length
  | .xorMemReg addr r => (BinForm.memReg addr r).length
  | .xorRegImm q => (BinForm.regImm q).length
  | .xorBxImm v => (BinForm.bxImm v).length
  | .xorMemImm addr v => (BinForm.memImm addr v).length
  | .incReg r => (UnForm.reg r).length
  | .incBx w => (UnForm.bx w).length
  | .incMem w addr => (UnForm.mem w addr).length
  | .decReg r => (UnForm.reg r).length
  | .decBx w => (UnForm.bx w).length
  | .decMem w addr => (UnForm.mem w addr).length
  | .negReg r => (UnForm.reg r).length
  | .negBx w => (UnForm.bx w).length
  | .negMem w addr => (UnForm.mem w addr).length
  | .notReg r => (UnForm.reg r).length
  | .notBx w => (UnForm.bx w).length
  | .notMem w addr => (UnForm.mem w addr).length
  | .nop | .hlt | .cli | .sti | .pushf | .popf | .ret | .iret => 1
  | .push _ | .pop _ => 1
  | .jmp _ | .call _ | .jz _ | .jnz _ | .jc _ | .jnc _ | .js _ | .jns _ | .jo _ | .jno _ => 3
  | .intN _ | .int0 | .int3 | .int6 | .int7 => 2
  | .inPort _ _ | .outPort _ _ => 2
  | .inDx _ | .outDx _ => 1

/-! ### `ENCODING` as an argument (R7, D1) -/

/-- The longest instruction: 6 bytes (R88, R143). -/
def maxLength : Nat := 6

/-- The parameter `ENCODING`: what a first byte and those after it mean, and the bytes and the length of an instruction.
The machine takes it as an argument (`stepWith`, `assembleWith`); it is no part of the state. -/
structure InstrEncoding where
  decode : List Byte → Decoded
  encode : Instr → List Byte
  length : Instr → Nat
  maxLength : Nat

/-- The tables of 30_encoding, the parameter's default. -/
def InstrEncoding.standard : InstrEncoding :=
  { decode := Sys2Proof.decode, encode := Sys2Proof.encode, length := Instr.length, maxLength := Sys2Proof.maxLength }

/-! ### The opcode table's own numbering -/

/-- The `count` lowest bytes of `w`, most significant first. -/
def bytesOfNat (w : Nat) : Nat → List Byte
  | 0 => []
  | count + 1 => BitVec.ofNat 8 (w >>> (8 * count)) :: bytesOfNat w count

/-- The bytes of a table word.  The table writes the `nbits` bits of a row as ONE number whose most significant byte is
B0 (its "match_bytes" is "B0 B1", and its "fixed" bits count from that number's least significant bit): so B0 is the top
byte of `w`, B1 the byte below it, and every byte after those is 00h (log 14). -/
def tableBytes (nbits w : Nat) : List Byte :=
  let n := (nbits + 7) / 8
  bytesOfNat w n ++ List.replicate (maxLength - n) 0#8

/-- The instruction the decoder reads from a row's bits, numbered as spec/opcode_table.json numbers them. -/
def decodeTableWord (nbits w : Nat) : Option Instr :=
  match decode (tableBytes nbits w) with
  | .ok i _ => some i
  | _ => none

end Sys2Proof
end

