-- ==== Sys2Proof/Machine/Fetch.lean ====
section
/-! DEFINITION. Fetching and decoding the instruction at `IP` (30_encoding R121, R122, R144), and storing a table word
where the next fetch reads it. -/

namespace Sys2Proof.Machine

/-- Up to `count` bytes from `a` on, ending before the first address that does not exist (R121, R122). -/
def fetchBytes (m : Memory) : Word → Nat → List Byte
  | _, 0 => []
  | a, count + 1 => if inRange a then m.read a.toNat :: fetchBytes m (a + 1#16) count else []

/-- The instruction at `IP` under an encoding, and the state with `IP` moved past it (R34, R144).  Bytes that end too early are a fetch
outside memory (R122); bytes that are no instruction are `invalid-instruction` (R141). -/
def fetchDecodeWith (enc : InstrEncoding) (s : State) : Result (Instr × State) :=
  match enc.decode (fetchBytes s.mem s.ip enc.maxLength) with
  | .ok i _ => .next (i, s.setIp (s.ip + BitVec.ofNat 16 (enc.length i)))
  | .truncated => .fault (.memoryOutOfRange s.console)
  | .illegal _ => .fault (.invalidInstruction s.console)

/-- Fetch and decode by the tables of 30_encoding. -/
def fetchDecode (s : State) : Result (Instr × State) := fetchDecodeWith .standard s

/-- `bs` stored from `a` on; a byte whose address does not exist is dropped. -/
def storeBytes (m : Memory) : Word → List Byte → Memory
  | _, [] => m
  | a, b :: bs => storeBytes (if inRange a then m.write a.toNat b else m) (a + 1#16) bs

end Sys2Proof.Machine
end

