-- ==== Sys2Proof/Machine/Step.lean ====
section
/-! DEFINITION. One step (60_exceptions R292). -/

namespace Sys2Proof.Machine

/-- One instruction under an encoding: fetched and decoded at `IP`, executed, ended. -/
def runInstruction (enc : InstrEncoding) (s : State) : Host.Outcome State Fault Refusal :=
  andThen (fetchDecodeWith enc s) fun (i, s1) => endOfInstruction (exec i s1)

/-- `Step()` for any `ENCODING` (R7): the boundary, then one instruction.  A waiting `INT 6` only takes the host's byte
(R291), and a halted machine stays as it is for ever (R48, I15; log 10). -/
def stepWith (enc : InstrEncoding) (s : State) : Host.Outcome State Fault Refusal :=
  match s.status with
  | .running => andThen (boundary s) (runInstruction enc)
  | .awaitingInput => resumeInt6 s
  | .halted => .next s

/-- `Step()` with the encoding of 30_encoding. -/
def step (s : State) : Host.Outcome State Fault Refusal := stepWith .standard s

/-- `s` with a table word's instruction stored at `IP`, where the next step fetches. -/
def State.withFetchWord (s : State) (nbits w : Nat) : State :=
  { s with mem := storeBytes s.mem s.ip (tableBytes nbits w) }

end Sys2Proof.Machine
end

