-- ==== Sys2Proof/Machine/Load.lean ====
section
/-! DEFINITION. Reset and program load (70_reset_and_hazards R300, R301): the start of a run as a function of the
parameters, the memory policy, the images and the IVT patches. -/

namespace Sys2Proof.Machine

/-- `MEM_INIT` (R7, R301).  For `random` the bytes are an argument: byte k is the one at address k, 00h past the list's
end. -/
inductive MemInit where
  | clean
  | random (bytes : List Byte)
  | unchanged
  deriving DecidableEq, Repr

/-- An image: a sparse map from populated addresses to bytes (R159, R301). -/
abbrev Image := List (Fin 0x4000 × Byte)

/-- `LOAD_PATCHES`: pairs of an interrupt number and its vector word (R301, D34). -/
abbrev Patches := List (Byte × Word)

/-- The first bytes of `bs` at addresses `a`, `a+1`, ..., up to the memory's top. -/
def Memory.fill (m : Memory) : Nat → List Byte → Memory
  | _, [] => m
  | a, b :: bs => if a < Config.memSize then Memory.fill (m.write a b) (a + 1) bs else m

/-- Step 1 of `LoadProgram`: the initial content, given what the previous run left (R301, R303). -/
def initialMemory (policy : MemInit) (previous : Memory) : Memory :=
  match policy with
  | .clean => []
  | .random bytes => Memory.fill [] 0 bytes
  | .unchanged => previous

/-- Steps 2 and 3: an image written over memory. -/
def Memory.writeImage (m : Memory) (image : Image) : Memory :=
  image.foldl (fun m c => m.write c.1.val c.2) m

/-- Step 4: the IVT patches. -/
def Memory.writePatches (m : Memory) (patches : Patches) : Memory :=
  patches.foldl (fun m p => (m.write (4 * p.1.toNat) (loByte p.2)).write (4 * p.1.toNat + 1) (hiByte p.2)) m

/-- `LoadProgram` (R301). -/
def loadMemory (policy : MemInit) (previous : Memory) (code data : Image) (patches : Patches) : Memory :=
  (((initialMemory policy previous).writeImage data).writeImage code).writePatches patches

/-- The start of a run (R300): memory by `LoadProgram`, every register and device register at its reset value (R50),
`running`, an empty console.  `events` and `keys` are what the host will do. -/
def startRun (p : Params) (memory : Memory) (events : List (List HostEvent)) (keys : List Byte) : State :=
  { State.reset with
    mem := memory
    sp := p.spReset
    ip := p.startIp
    pic := { State.reset.pic with imr := p.imrReset }
    params := p
    hostEvents := events
    keyboard := keys }

end Sys2Proof.Machine
end

