-- ==== Sys2Proof/Safety.lean ====
section
/-! DEFINITION. The terms in which claims about the machine are stated: the invariant, the frames (what a step leaves
alone), and the spec's results as relations over numbers, written from the rules and not from the model's functions. -/

namespace Sys2Proof.Machine

/-! ### The invariant -/

/-- No bit or one bit is set (R44). -/
def atMostOneBit (b : Byte) : Prop := b = 0#8 ∨ ∃ n : Fin 8, b = bitMask n

/-- What every state keeps: memory in canonical form, at most one line in service (R44), and bits 6:2 of `STATE` at 0
(R47). -/
structure Invariant (s : State) : Prop where
  memory : s.mem.wf = true
  inService : atMostOneBit s.pic.isr
  handshake : s.hs.state &&& ~~~ hsStateBits = 0#8

/-- The run goes on from `s`: neither halted nor waiting for the host. -/
abbrev Running (s : State) : Prop := s.status = .running

/-! ### Memory as claims read it -/

/-- The byte at `a` exists (R81). -/
abbrev ByteIn (a : Word) : Prop := a.toNat ≤ 0x3FFF

/-- Both bytes of the word at `a` exist (R84). -/
abbrev WordIn (a : Word) : Prop := a.toNat ≤ 0x3FFE

/-- The byte at `a`. -/
def State.byteAt (s : State) (a : Word) : Byte := s.mem.read a.toNat

/-- The number the word at `a` stands for: low byte first (R83). -/
def State.wordNatAt (s : State) (a : Word) : Nat := (s.mem.read a.toNat).toNat + 256 * (s.mem.read (a.toNat + 1)).toNat

/-- The word at `a`. -/
def State.wordAt (s : State) (a : Word) : Word := BitVec.ofNat 16 (s.wordNatAt a)

/-- Every byte of memory is as before. -/
def SameMemory (s t : State) : Prop := ∀ a : Nat, t.mem.read a = s.mem.read a

/-- Every byte of memory but the one at `a` is as before. -/
def SameMemoryBut1 (s t : State) (a : Word) : Prop := ∀ b : Nat, b ≠ a.toNat → t.mem.read b = s.mem.read b

/-- Every byte of memory but those at `a` and `a + 1` is as before. -/
def SameMemoryBut2 (s t : State) (a : Word) : Prop :=
  ∀ b : Nat, b ≠ a.toNat → b ≠ a.toNat + 1 → t.mem.read b = s.mem.read b

/-! ### Frames -/

/-- Every general register is as before. -/
def SameRegisters (s t : State) : Prop := ∀ r : Reg16, t.reg16 r = s.reg16 r

/-- Everything but the general registers, `IP`, the flags and memory is as before: the devices, the run status, the
console, the breakpoints, the host's schedule, the parameters, the internal registers. -/
def SameOutside (s t : State) : Prop :=
  t = { s with ax := t.ax, bx := t.bx, cx := t.cx, dx := t.dx, sp := t.sp, ip := t.ip, flags := t.flags, mem := t.mem }

/-- Of registers and memory, only the byte register `d` may change; `IP` stays. -/
structure OnlyReg8 (s t : State) (d : Reg8) : Prop where
  outside : SameOutside s t
  ip : t.ip = s.ip
  memory : SameMemory s t
  sp : t.sp = s.sp
  others : ∀ r : Reg8, r ≠ d → t.reg8 r = s.reg8 r

/-- Of registers and memory, only the word register `d` may change; `IP` stays. -/
structure OnlyReg16 (s t : State) (d : Reg16) : Prop where
  outside : SameOutside s t
  ip : t.ip = s.ip
  memory : SameMemory s t
  others : ∀ r : Reg16, r ≠ d → t.reg16 r = s.reg16 r

/-- Of registers and memory, only the byte at `a` may change; `IP` stays. -/
structure OnlyByte (s t : State) (a : Word) : Prop where
  outside : SameOutside s t
  ip : t.ip = s.ip
  registers : SameRegisters s t
  others : SameMemoryBut1 s t a

/-- Of registers and memory, only the word at `a` may change; `IP` stays. -/
structure OnlyWord (s t : State) (a : Word) : Prop where
  outside : SameOutside s t
  ip : t.ip = s.ip
  registers : SameRegisters s t
  others : SameMemoryBut2 s t a

/-- No register and no memory byte changes; `IP` stays. -/
structure OnlyFlags (s t : State) : Prop where
  outside : SameOutside s t
  ip : t.ip = s.ip
  registers : SameRegisters s t
  memory : SameMemory s t

/-! ### The ALU's results over unbounded integers (R9, R170, R171, R200) -/

/-- `trunc_n` of `u` is `r` (R9). -/
def Truncates (n : Nat) (u : Int) (r : BitVec n) : Prop := (r.toNat : Int) = u % 2 ^ n

/-- `s` is no n-bit signed value. -/
def SignedOverflow (n : Nat) (s : Int) : Prop := s < -2 ^ (n - 1) ∨ 2 ^ (n - 1) ≤ s

/-- ZF and SF follow the result (R170, R200). -/
def ZeroSignFrom {n : Nat} (g : Flags) (r : BitVec n) : Prop :=
  (g.zero = true ↔ r.toNat = 0) ∧ (g.sign = true ↔ 2 ^ (n - 1) ≤ r.toNat)

/-- What a Binary operation must give: from the operands and the flags before, the result and the flags after. -/
abbrev AluRelation := (n : Nat) → BitVec n → BitVec n → Flags → BitVec n → Flags → Prop

/-- The addition of R170 with carry-in `c`: result, all four flags, `IF` kept. -/
def Adds (n : Nat) (a b : BitVec n) (c : Nat) (f : Flags) (r : BitVec n) (g : Flags) : Prop :=
  Truncates n (a.toNat + b.toNat + c) r ∧ (g.carry = true ↔ 2 ^ n ≤ a.toNat + b.toNat + c) ∧
  (g.overflow = true ↔ SignedOverflow n (a.toInt + b.toInt + c)) ∧ ZeroSignFrom g r ∧ g.interrupt = f.interrupt

/-- The subtraction of R171 with borrow-in `c`. -/
def Subtracts (n : Nat) (a b : BitVec n) (c : Nat) (f : Flags) (r : BitVec n) (g : Flags) : Prop :=
  Truncates n (a.toNat - b.toNat - c) r ∧ (g.carry = true ↔ a.toNat < b.toNat + c) ∧
  (g.overflow = true ↔ SignedOverflow n (a.toInt - b.toInt - c)) ∧ ZeroSignFrom g r ∧ g.interrupt = f.interrupt

/-- A logic result `r` whose bit i is `op` of the operands' bits i (R200 to R203). -/
def Combines (op : Bool → Bool → Bool) (n : Nat) (a b : BitVec n) (f : Flags) (r : BitVec n) (g : Flags) : Prop :=
  (∀ i : Nat, i < n → r.getLsbD i = op (a.getLsbD i) (b.getLsbD i)) ∧ g.carry = false ∧ g.overflow = false ∧
  ZeroSignFrom g r ∧ g.interrupt = f.interrupt

/-- ADD (R174). -/
def AddRelation : AluRelation := fun n a b f r g => Adds n a b 0 f r g

/-- ADC (R175). -/
def AdcRelation : AluRelation := fun n a b f r g => Adds n a b f.carry.toNat f r g

/-- SUB (R176) and the flags of CMP (R178). -/
def SubRelation : AluRelation := fun n a b f r g => Subtracts n a b 0 f r g

/-- SBB (R177). -/
def SbbRelation : AluRelation := fun n a b f r g => Subtracts n a b f.carry.toNat f r g

/-- MOV: the source, no flag written (R211). -/
def MovRelation : AluRelation := fun _ _ b f r g => r = b ∧ g = f

/-- AND, OR, XOR (R201 to R203). -/
def LogicRelation (op : Bool → Bool → Bool) : AluRelation := fun n a b f r g => Combines op n a b f r g

/-- Every operand form of R131 at both sizes, for an operation that writes its destination: the instruction answers a next
state in which the destination holds a result `R` admits, the flags are as `R` says, and nothing else has changed.  A
memory operand must lie in memory (R84). -/
structure BinaryForms (op : BinOp) (R : AluRelation) (s : State) : Prop where
  regReg8 : ∀ d r : Reg8, ∃ t, exec (.ofBin op (.regReg (.byte d r))) s = .next t ∧ OnlyReg8 s t d ∧
    R 8 (s.reg8 d) (s.reg8 r) s.flags (t.reg8 d) t.flags
  regReg16 : ∀ d r : Reg16, ∃ t, exec (.ofBin op (.regReg (.word d r))) s = .next t ∧ OnlyReg16 s t d ∧
    R 16 (s.reg16 d) (s.reg16 r) s.flags (t.reg16 d) t.flags
  regBx8 : ∀ d : Reg8, ByteIn s.bx → ∃ t, exec (.ofBin op (.regBx (.byte d))) s = .next t ∧ OnlyReg8 s t d ∧
    R 8 (s.reg8 d) (s.byteAt s.bx) s.flags (t.reg8 d) t.flags
  regBx16 : ∀ d : Reg16, WordIn s.bx → ∃ t, exec (.ofBin op (.regBx (.word d))) s = .next t ∧ OnlyReg16 s t d ∧
    R 16 (s.reg16 d) (s.wordAt s.bx) s.flags (t.reg16 d) t.flags
  regMem8 : ∀ (d : Reg8) (a : Word), ByteIn a → ∃ t, exec (.ofBin op (.regMem (.byte d) a)) s = .next t ∧
    OnlyReg8 s t d ∧ R 8 (s.reg8 d) (s.byteAt a) s.flags (t.reg8 d) t.flags
  regMem16 : ∀ (d : Reg16) (a : Word), WordIn a → ∃ t, exec (.ofBin op (.regMem (.word d) a)) s = .next t ∧
    OnlyReg16 s t d ∧ R 16 (s.reg16 d) (s.wordAt a) s.flags (t.reg16 d) t.flags
  bxReg8 : ∀ r : Reg8, ByteIn s.bx → ∃ t, exec (.ofBin op (.bxReg (.byte r))) s = .next t ∧ OnlyByte s t s.bx ∧
    R 8 (s.byteAt s.bx) (s.reg8 r) s.flags (t.byteAt s.bx) t.flags
  bxReg16 : ∀ r : Reg16, WordIn s.bx → ∃ t, exec (.ofBin op (.bxReg (.word r))) s = .next t ∧ OnlyWord s t s.bx ∧
    R 16 (s.wordAt s.bx) (s.reg16 r) s.flags (t.wordAt s.bx) t.flags
  memReg8 : ∀ (a : Word) (r : Reg8), ByteIn a → ∃ t, exec (.ofBin op (.memReg a (.byte r))) s = .next t ∧
    OnlyByte s t a ∧ R 8 (s.byteAt a) (s.reg8 r) s.flags (t.byteAt a) t.flags
  memReg16 : ∀ (a : Word) (r : Reg16), WordIn a → ∃ t, exec (.ofBin op (.memReg a (.word r))) s = .next t ∧
    OnlyWord s t a ∧ R 16 (s.wordAt a) (s.reg16 r) s.flags (t.wordAt a) t.flags
  regImm8 : ∀ (d : Reg8) (v : Byte), ∃ t, exec (.ofBin op (.regImm (.byte d v))) s = .next t ∧ OnlyReg8 s t d ∧
    R 8 (s.reg8 d) v s.flags (t.reg8 d) t.flags
  regImm16 : ∀ (d : Reg16) (v : Word), ∃ t, exec (.ofBin op (.regImm (.word d v))) s = .next t ∧ OnlyReg16 s t d ∧
    R 16 (s.reg16 d) v s.flags (t.reg16 d) t.flags
  bxImm8 : ∀ v : Byte, ByteIn s.bx → ∃ t, exec (.ofBin op (.bxImm (.byte v))) s = .next t ∧ OnlyByte s t s.bx ∧
    R 8 (s.byteAt s.bx) v s.flags (t.byteAt s.bx) t.flags
  bxImm16 : ∀ v : Word, WordIn s.bx → ∃ t, exec (.ofBin op (.bxImm (.word v))) s = .next t ∧ OnlyWord s t s.bx ∧
    R 16 (s.wordAt s.bx) v s.flags (t.wordAt s.bx) t.flags
  memImm8 : ∀ (a : Word) (v : Byte), ByteIn a → ∃ t, exec (.ofBin op (.memImm a (.byte v))) s = .next t ∧
    OnlyByte s t a ∧ R 8 (s.byteAt a) v s.flags (t.byteAt a) t.flags
  memImm16 : ∀ (a : Word) (v : Word), WordIn a → ∃ t, exec (.ofBin op (.memImm a (.word v))) s = .next t ∧
    OnlyWord s t a ∧ R 16 (s.wordAt a) v s.flags (t.wordAt a) t.flags

/-- Every operand form of R131 at both sizes for CMP: the flags are those of a subtraction, and nothing else changes
(R178). -/
structure CompareForms (s : State) : Prop where
  regReg8 : ∀ d r : Reg8, ∃ t v, exec (.ofBin .cmp (.regReg (.byte d r))) s = .next t ∧ OnlyFlags s t ∧
    SubRelation 8 (s.reg8 d) (s.reg8 r) s.flags v t.flags
  regReg16 : ∀ d r : Reg16, ∃ t v, exec (.ofBin .cmp (.regReg (.word d r))) s = .next t ∧ OnlyFlags s t ∧
    SubRelation 16 (s.reg16 d) (s.reg16 r) s.flags v t.flags
  regBx8 : ∀ d : Reg8, ByteIn s.bx → ∃ t v, exec (.ofBin .cmp (.regBx (.byte d))) s = .next t ∧ OnlyFlags s t ∧
    SubRelation 8 (s.reg8 d) (s.byteAt s.bx) s.flags v t.flags
  regBx16 : ∀ d : Reg16, WordIn s.bx → ∃ t v, exec (.ofBin .cmp (.regBx (.word d))) s = .next t ∧ OnlyFlags s t ∧
    SubRelation 16 (s.reg16 d) (s.wordAt s.bx) s.flags v t.flags
  regMem8 : ∀ (d : Reg8) (a : Word), ByteIn a → ∃ t v, exec (.ofBin .cmp (.regMem (.byte d) a)) s = .next t ∧
    OnlyFlags s t ∧ SubRelation 8 (s.reg8 d) (s.byteAt a) s.flags v t.flags
  regMem16 : ∀ (d : Reg16) (a : Word), WordIn a → ∃ t v, exec (.ofBin .cmp (.regMem (.word d) a)) s = .next t ∧
    OnlyFlags s t ∧ SubRelation 16 (s.reg16 d) (s.wordAt a) s.flags v t.flags
  bxReg8 : ∀ r : Reg8, ByteIn s.bx → ∃ t v, exec (.ofBin .cmp (.bxReg (.byte r))) s = .next t ∧ OnlyFlags s t ∧
    SubRelation 8 (s.byteAt s.bx) (s.reg8 r) s.flags v t.flags
  bxReg16 : ∀ r : Reg16, WordIn s.bx → ∃ t v, exec (.ofBin .cmp (.bxReg (.word r))) s = .next t ∧ OnlyFlags s t ∧
    SubRelation 16 (s.wordAt s.bx) (s.reg16 r) s.flags v t.flags
  memReg8 : ∀ (a : Word) (r : Reg8), ByteIn a → ∃ t v, exec (.ofBin .cmp (.memReg a (.byte r))) s = .next t ∧
    OnlyFlags s t ∧ SubRelation 8 (s.byteAt a) (s.reg8 r) s.flags v t.flags
  memReg16 : ∀ (a : Word) (r : Reg16), WordIn a → ∃ t v, exec (.ofBin .cmp (.memReg a (.word r))) s = .next t ∧
    OnlyFlags s t ∧ SubRelation 16 (s.wordAt a) (s.reg16 r) s.flags v t.flags
  regImm8 : ∀ (d : Reg8) (b : Byte), ∃ t v, exec (.ofBin .cmp (.regImm (.byte d b))) s = .next t ∧ OnlyFlags s t ∧
    SubRelation 8 (s.reg8 d) b s.flags v t.flags
  regImm16 : ∀ (d : Reg16) (b : Word), ∃ t v, exec (.ofBin .cmp (.regImm (.word d b))) s = .next t ∧ OnlyFlags s t ∧
    SubRelation 16 (s.reg16 d) b s.flags v t.flags
  bxImm8 : ∀ b : Byte, ByteIn s.bx → ∃ t v, exec (.ofBin .cmp (.bxImm (.byte b))) s = .next t ∧ OnlyFlags s t ∧
    SubRelation 8 (s.byteAt s.bx) b s.flags v t.flags
  bxImm16 : ∀ b : Word, WordIn s.bx → ∃ t v, exec (.ofBin .cmp (.bxImm (.word b))) s = .next t ∧ OnlyFlags s t ∧
    SubRelation 16 (s.wordAt s.bx) b s.flags v t.flags
  memImm8 : ∀ (a : Word) (b : Byte), ByteIn a → ∃ t v, exec (.ofBin .cmp (.memImm a (.byte b))) s = .next t ∧
    OnlyFlags s t ∧ SubRelation 8 (s.byteAt a) b s.flags v t.flags
  memImm16 : ∀ (a : Word) (b : Word), WordIn a → ∃ t v, exec (.ofBin .cmp (.memImm a (.word b))) s = .next t ∧
    OnlyFlags s t ∧ SubRelation 16 (s.wordAt a) b s.flags v t.flags

/-- What a Unary operation must give. -/
abbrev UnaryRelation := (n : Nat) → BitVec n → Flags → BitVec n → Flags → Prop

/-- INC: `a + 1`, CF kept (R180). -/
def IncRelation : UnaryRelation := fun n a f r g =>
  Truncates n (a.toNat + 1) r ∧ (g.overflow = true ↔ a.toNat = 2 ^ (n - 1) - 1) ∧ ZeroSignFrom g r ∧
  g.carry = f.carry ∧ g.interrupt = f.interrupt

/-- DEC: `a - 1`, CF kept (R181). -/
def DecRelation : UnaryRelation := fun n a f r g =>
  Truncates n (a.toNat - 1) r ∧ (g.overflow = true ↔ a.toNat = 2 ^ (n - 1)) ∧ ZeroSignFrom g r ∧
  g.carry = f.carry ∧ g.interrupt = f.interrupt

/-- NEG: `0 - a`, `CF = (a != 0)`, `OF = (a = 2^(n-1))` (R179). -/
def NegRelation : UnaryRelation := fun n a f r g =>
  Truncates n (-a.toNat) r ∧ (g.carry = true ↔ a.toNat ≠ 0) ∧ (g.overflow = true ↔ a.toNat = 2 ^ (n - 1)) ∧
  ZeroSignFrom g r ∧ g.interrupt = f.interrupt

/-- NOT: every bit inverted, CF and OF cleared (R204). -/
def NotRelation : UnaryRelation := fun n a f r g =>
  (∀ i : Nat, i < n → r.getLsbD i = !a.getLsbD i) ∧ g.carry = false ∧ g.overflow = false ∧ ZeroSignFrom g r ∧
  g.interrupt = f.interrupt

/-- Every operand of R134 at both sizes, as `BinaryForms`. -/
structure UnaryForms (op : UnOp) (R : UnaryRelation) (s : State) : Prop where
  reg8 : ∀ d : Reg8, ∃ t, exec (.ofUn op (.reg (.byte d))) s = .next t ∧ OnlyReg8 s t d ∧
    R 8 (s.reg8 d) s.flags (t.reg8 d) t.flags
  reg16 : ∀ d : Reg16, ∃ t, exec (.ofUn op (.reg (.word d))) s = .next t ∧ OnlyReg16 s t d ∧
    R 16 (s.reg16 d) s.flags (t.reg16 d) t.flags
  bx8 : ByteIn s.bx → ∃ t, exec (.ofUn op (.bx .byte)) s = .next t ∧ OnlyByte s t s.bx ∧
    R 8 (s.byteAt s.bx) s.flags (t.byteAt s.bx) t.flags
  bx16 : WordIn s.bx → ∃ t, exec (.ofUn op (.bx .word)) s = .next t ∧ OnlyWord s t s.bx ∧
    R 16 (s.wordAt s.bx) s.flags (t.wordAt s.bx) t.flags
  mem8 : ∀ a : Word, ByteIn a → ∃ t, exec (.ofUn op (.mem .byte a)) s = .next t ∧ OnlyByte s t a ∧
    R 8 (s.byteAt a) s.flags (t.byteAt a) t.flags
  mem16 : ∀ a : Word, WordIn a → ∃ t, exec (.ofUn op (.mem .word a)) s = .next t ∧ OnlyWord s t a ∧
    R 16 (s.wordAt a) s.flags (t.wordAt a) t.flags

/-! ### The stack -/

/-- A push stays in memory: `SP` is at least 2, and `SP - 2` holds a word (R215). -/
abbrev CanPush (s : State) : Prop := 2 ≤ s.sp.toNat ∧ s.sp.toNat ≤ 0x4000

/-- Two pushes stay in memory. -/
abbrev CanPushTwice (s : State) : Prop := 4 ≤ s.sp.toNat ∧ s.sp.toNat ≤ 0x4000

/-- A pop stays in memory (R216). -/
abbrev CanPop (s : State) : Prop := s.sp.toNat ≤ 0x3FFE

/-- Two pops stay in memory. -/
abbrev CanPopTwice (s : State) : Prop := s.sp.toNat ≤ 0x3FFC

/-- Every general register but `SP` is as before. -/
def SameRegistersButSp (s t : State) : Prop := t.ax = s.ax ∧ t.bx = s.bx ∧ t.cx = s.cx ∧ t.dx = s.dx

/-- `t` is `s` after one push of the number `v`: `SP` two lower, the word below the old `SP` written, nothing else but
`IP` and the flags changed (R215). -/
structure Pushed (s t : State) (v : Nat) : Prop where
  outside : SameOutside s t
  sp : t.sp.toNat + 2 = s.sp.toNat
  registers : SameRegistersButSp s t
  word : t.wordNatAt t.sp = v
  others : SameMemoryBut2 s t t.sp

/-- The FLAGS word of R39 as a number. -/
def flagsNat (f : Flags) : Nat :=
  f.carry.toNat + 64 * f.zero.toNat + 128 * f.sign.toNat + 512 * f.interrupt.toNat + 2048 * f.overflow.toNat

/-- The flags R39 loads from a word given as a number: bits 0, 6, 7, 9 and 11. -/
def FlagsFrom (f : Flags) (w : Nat) : Prop :=
  f.carry = w.testBit 0 ∧ f.zero = w.testBit 6 ∧ f.sign = w.testBit 7 ∧ f.interrupt = w.testBit 9 ∧
  f.overflow = w.testBit 11

/-- `t` is `s` after the entry of vector `id` with the return address `ret`: FLAGS and `IP` pushed, `IF` cleared, `IP`
from the IVT as memory stands after the pushes (R246, R270, R271). -/
structure EnteredVector (s t : State) (id : Byte) (ret : Word) : Prop where
  sp : t.sp.toNat + 4 = s.sp.toNat
  registers : SameRegistersButSp s t
  savedFlags : t.wordNatAt (t.sp + 2#16) = flagsNat s.flags
  savedIp : t.wordNatAt t.sp = ret.toNat
  others : ∀ b : Nat, b < t.sp.toNat ∨ t.sp.toNat + 4 ≤ b → t.mem.read b = s.mem.read b
  flags : t.flags = { s.flags with interrupt := false }
  ip : t.ip = t.wordAt (BitVec.ofNat 16 (4 * id.toNat))

/-- Memory after INT 6 has stored `b` at `[BX]` over the FLAGS word `w` it pushed (R249). -/
def StoredOverFlags (s t : State) (b : Byte) (w : Nat) : Prop :=
  ∀ a : Nat, t.mem.read a =
    if a = s.bx.toNat then b
    else if a + 2 = s.sp.toNat then BitVec.ofNat 8 w
    else if a + 1 = s.sp.toNat then BitVec.ofNat 8 (w / 256)
    else s.mem.read a

/-! ### The flag writers of R37 -/

/-- Which flags an instruction may write. -/
structure FlagWrites where
  carry : Bool
  zero : Bool
  sign : Bool
  overflow : Bool
  interrupt : Bool
  deriving DecidableEq, Repr

/-- A row of R37's table that writes no flag. -/
def FlagWrites.none : FlagWrites := ⟨false, false, false, false, false⟩

/-- The four status flags, not `IF`. -/
def FlagWrites.status : FlagWrites := ⟨true, true, true, true, false⟩

/-- R37's table for the Binary operations. -/
def binFlagWrites : BinOp → FlagWrites
  | .mov => .none
  | _ => .status

/-- R37's table for the Unary operations. -/
def unFlagWrites : UnOp → FlagWrites
  | .inc | .dec => ⟨false, true, true, true, false⟩
  | .neg | .not => .status

/-- Every flag outside `w` is as before. -/
def KeepsFlagsOutside (w : FlagWrites) (f g : Flags) : Prop :=
  (w.carry = false → g.carry = f.carry) ∧ (w.zero = false → g.zero = f.zero) ∧ (w.sign = false → g.sign = f.sign) ∧
  (w.overflow = false → g.overflow = f.overflow) ∧ (w.interrupt = false → g.interrupt = f.interrupt)

/-! ### The port table of R93, by number -/

/-- How far port `p` lies above `base`, mod 256. -/
def portOffset (base : Byte) (p : Nat) : Nat := (p + (256 - base.toNat)) % 256

/-- The ports of the device registers, in the order of R93's table. -/
def State.ports (s : State) : List Nat :=
  (List.range 12).map (fun k => (s.params.picBase.toNat + k) % 256) ++
    (List.range 2).map (fun k => (s.params.timerBase.toNat + k) % 256) ++
    (List.range 4).map (fun k => (s.params.pioBase.toNat + k) % 256) ++ [0x40, 0x41]

/-- R93's column "CPU read returns".  Where the bases give two registers one port, the earlier row has it (log 20). -/
def portValue (s : State) (p : Nat) : Byte :=
  match portOffset s.params.picBase p with
  | 0 => s.pic.eoi
  | 1 => s.pic.imr
  | 2 => s.pic.irr
  | 3 => s.pic.isr
  | 4 => s.pic.vec[0]
  | 5 => s.pic.vec[1]
  | 6 => s.pic.vec[2]
  | 7 => s.pic.vec[3]
  | 8 => s.pic.vec[4]
  | 9 => s.pic.vec[5]
  | 10 => s.pic.vec[6]
  | 11 => s.pic.vec[7]
  | _ =>
    match portOffset s.params.timerBase p with
    | 0 => s.timer.cont
    | 1 => s.timer.comp
    | _ =>
      match portOffset s.params.pioBase p with
      | 0 => s.pio.pa
      | 1 => s.pio.pb
      | 2 => s.pio.ca
      | 3 => s.pio.cb
      | _ =>
        match p with
        | 0x40 => s.hs.data
        | 0x41 => s.hs.state &&& 0b10000011#8
        | _ => 0x00#8

/-- R93's column "CPU write of byte b does", with the same order. -/
def portWritten (s : State) (p : Nat) (b : Byte) : State :=
  match portOffset s.params.picBase p with
  | 0 => { s with pic.eoi := b }
  | 1 => { s with pic.imr := b }
  | 2 => s
  | 3 => s
  | 4 => { s with pic.vec := s.pic.vec.set 0 b }
  | 5 => { s with pic.vec := s.pic.vec.set 1 b }
  | 6 => { s with pic.vec := s.pic.vec.set 2 b }
  | 7 => { s with pic.vec := s.pic.vec.set 3 b }
  | 8 => { s with pic.vec := s.pic.vec.set 4 b }
  | 9 => { s with pic.vec := s.pic.vec.set 5 b }
  | 10 => { s with pic.vec := s.pic.vec.set 6 b }
  | 11 => { s with pic.vec := s.pic.vec.set 7 b }
  | _ =>
    match portOffset s.params.timerBase p with
    | 0 => { s with timer.cont := b }
    | 1 => { s with timer.comp := b }
    | _ =>
      match portOffset s.params.pioBase p with
      | 0 => { s with pio.pa := (s.pio.pa &&& ~~~s.pio.ca) ||| (b &&& s.pio.ca) }
      | 1 => { s with pio.pb := (s.pio.pb &&& ~~~s.pio.cb) ||| (b &&& s.pio.cb) }
      | 2 => { s with pio.ca := b }
      | 3 => { s with pio.cb := b }
      | _ =>
        match p with
        | 0x40 =>
          if s.hs.state.getLsbD 0 = false then { s with hs := { data := b, state := s.hs.state ||| 1#8 } } else s
        | 0x41 => { s with hs.state := (s.hs.state &&& 0b00000001#8) ||| (b &&& 0b10000010#8) }
        | _ => s

/-- `IoInvalid` is false at port `p` in direction `dir` (R98). -/
abbrev PortAllowed (s : State) (p : Byte) (dir : IoDir) : Prop := (s.params.deviceConfig, p, dir) ∉ s.params.ioInvalid

/-- Port `p + 1` mod 256 (R225). -/
def nextPort (p : Byte) : Byte := BitVec.ofNat 8 ((p.toNat + 1) % 256)

/-! ### The opcode map of R131, R134, R136 and R140, by number -/

/-- `ValidReg(w, i)` for the number `i` (R126). -/
def validIndex (w i : Nat) : Bool := w = 0 || i ≤ 4

/-- The two bytes `B0 B1` of format BIN are legal: the listed (mm, k) pairs with their constraints (R131). -/
def legalBin (b0 b1 : Nat) : Bool :=
  let w := b0 / 4 % 2
  let r := b1 / 8 % 8
  let s := b1 % 8
  match b0 % 4, b1 / 64 with
  | 0, 0 => validIndex w r && validIndex w s
  | 1, 1 | 1, 2 | 2, 1 | 2, 2 | 3, 0 => validIndex w r && s = 0
  | 3, 1 | 3, 2 => r = 0 && s = 0
  | _, _ => false

/-- The first byte alone makes the instruction illegal (R140, R134, R136). -/
def reservedFirst (b0 : Nat) : Bool :=
  (0x55 ≤ b0 && b0 ≤ 0x57) || (0x5D ≤ b0 && b0 ≤ 0x5F) || (0x6B ≤ b0 && b0 ≤ 0x6F) || (0x78 ≤ b0 && b0 ≤ 0x7F) ||
  (0x80 ≤ b0 && 10 ≤ b0 % 16) || (0x80 ≤ b0 && b0 / 16 % 2 = 1 && 5 ≤ b0 % 16 && b0 % 16 ≤ 7)

/-! ### The load (R301) -/

/-- The byte step 1 of the load leaves at address `a`. -/
def initialByte (policy : MemInit) (previous : Memory) (a : Nat) : Byte :=
  match policy with
  | .clean => 0x00#8
  | .random bytes => bytes[a]?.getD 0x00#8
  | .unchanged => previous.read a

/-- The byte the patches put at address `a`, if one of them reaches it: a later patch overwrites an earlier one. -/
def patchedByte : Patches → Nat → Option Byte
  | [], _ => none
  | (id, w) :: later, a =>
    match patchedByte later a with
    | some b => some b
    | none =>
      if a = 4 * id.toNat then some (BitVec.ofNat 8 (w.toNat % 256))
      else if a = 4 * id.toNat + 1 then some (BitVec.ofNat 8 (w.toNat / 256))
      else none

/-! ### The boundary (R291, R292, R294) -/

/-- The events one after the other, each with a next state, take `s` to `t`. -/
def AppliesEvents : List HostEvent → State → State → Prop
  | [], s, t => t = s
  | e :: es, s, t => ∃ u, s.hostEvent e = .next u ∧ AppliesEvents es u t

/-- `u` is `s` after the host events of this boundary, which are the first list of the schedule (log 3). -/
def AfterEvents (s u : State) : Prop :=
  (s.hostEvents = [] ∧ u = s) ∨
    ∃ es later, s.hostEvents = es :: later ∧ AppliesEvents es { s with hostEvents := later } u

/-- Line `n` is the one `PIC.update()` selects: nothing in service, `IF = 1`, `n` pending and unmasked, and no lower
line is (R275, R277). -/
structure Selected (s : State) (n : Fin 8) : Prop where
  idle : s.pic.isr = 0#8
  enabled : s.flags.interrupt = true
  requested : s.pic.irr.getLsbD n = true
  unmasked : s.pic.imr.getLsbD n = false
  lowest : ∀ k : Nat, k < n → s.pic.irr.getLsbD k = true → s.pic.imr.getLsbD k = true

/-! ### Faults -/

/-- The code the spec spells (R260). -/
def Fault.code : Fault → String
  | .memoryOutOfRange _ => "memory-out-of-range"
  | .stackOverflow _ => "stack-overflow"
  | .stackUnderflow _ => "stack-underflow"
  | .reservedInterrupt _ => "reserved-interrupt"
  | .ioInvalidDeviceState _ => "io-invalid-device-state"
  | .invalidInstruction _ => "invalid-instruction"

end Sys2Proof.Machine
end

