-- ==== Sys2Proof/Certificates/Slice0/Obligations.lean ====
section
/-! DEFINITION. The statements.  Each docstring cites the rules it rests on; the relations and frames are in Safety.lean. -/

section

open Sys2Proof Sys2Proof.Machine

/-! ### Reset, load, invariant -/

/-- The state after reset has the invariant's three parts (R44, R47, R50, R300; the canonical form is log 1). -/
def Obligations.ResetSatisfiesInvariant : Prop := Invariant State.reset

/-- Every step from a state with the invariant gives one with it: memory stays canonical (log 1), `ISR` keeps at most one bit
(R44), bits 6:2 of `STATE` stay 0 (R47). -/
def Obligations.StepKeepsInvariant : Prop := ∀ s t : State, Invariant s → step s = .next t → Invariant t

/-- R301 for every memory policy and every list of patches: each byte of the loaded memory is the last patch's that
reaches it, else the code image's, else the data image's, else the initial content's (canonical: log 1; the random bytes
are a list, 00h past its end: log 16). -/
def Obligations.LoadedMemoryHoldsImages : Prop :=
  ∀ (policy : MemInit) (previous : Memory) (code data : Image) (patches : Patches),
    (policy = .unchanged → previous.wf = true) → (code.map Prod.fst).Nodup → (data.map Prod.fst).Nodup →
    (loadMemory policy previous code data patches).wf = true ∧
    ∀ a : Fin 0x4000, (loadMemory policy previous code data patches).read a.val =
      (patchedByte patches a.val).getD
        ((code.lookup a).getD ((data.lookup a).getD (initialByte policy previous a.val)))

/-! ### Encoding -/

/-- Decoding the bytes the encoder writes gives the instruction back, whatever follows them (R124 to R139). -/
def Obligations.DecodeOfEncode : Prop :=
  ∀ (i : Instr) (rest : List Byte), WellFormed i → decode (encode i ++ rest) = .ok i rest

/-- What the decoder accepts is exactly the encoding of the instruction it gives, which is well formed: no two byte
strings mean one instruction and no bit is ignored (R131, R141). -/
def Obligations.EncodeOfDecode : Prop :=
  ∀ (bytes rest : List Byte) (i : Instr), decode bytes = .ok i rest → WellFormed i ∧ bytes = encode i ++ rest

/-- Words written out from the encoding tables, one per format and more, decode to their instructions (R127 to R139). -/
def Obligations.WrittenWordsDecode : Prop :=
  decode [0x00#8, 0x01#8] = .ok (.movRegReg (.byte .al .bl)) [] ∧
  decode [0x01#8, 0x90#8, 0x34#8, 0x12#8] = .ok (.movRegMem (.byte .cl) 0x1234#16) [] ∧
  decode [0x2B#8, 0x80#8, 0x00#8, 0x10#8, 0x00#8] = .ok (.cmpMemImm 0x1000#16 (.byte 0#8)) [] ∧
  decode [0xB9#8, 0x00#8, 0x10#8] = .ok (.decMem .word 0x1000#16) [] ∧
  decode [0x4F#8] = .ok .iret [] ∧
  decode [0x5C#8] = .ok (.pop .sp) [] ∧
  decode [0x63#8, 0x08#8, 0x20#8] = .ok (.jnz 0x2008#16) [] ∧
  decode [0x6A#8, 0x10#8] = .ok (.intN 16#8) [] ∧
  decode [0x76#8, 0x21#8] = .ok (.outPort .word 0x21#8) []

/-- An illegal encoding is rejected, and only an illegal one: a reserved first byte by itself, before any later byte is
looked at, and in format BIN two bytes outside R131's table (R140, R141). -/
def Obligations.IllegalEncodingsRejected : Prop :=
  (∀ (b0 : Byte) (rest : List Byte), reservedFirst b0.toNat = true → ∃ why, decode (b0 :: rest) = .illegal why) ∧
  (∀ (b0 b1 : Byte) (rest : List Byte), b0.toNat ≤ 0x47 →
    ((∃ why, decode (b0 :: b1 :: rest) = .illegal why) ↔ legalBin b0.toNat b1.toNat = false)) ∧
  (∀ (b0 : Byte) (rest : List Byte) (why : Illegal), 0x48 ≤ b0.toNat → decode (b0 :: rest) = .illegal why →
    reservedFirst b0.toNat = true)

/-- Executing an illegal encoding raises `invalid-instruction` (R141): the bytes at `IP` are in memory and illegal, and
the step from a boundary that answers `t` ends the run with that code. -/
def Obligations.IllegalBytesFault : Prop :=
  ∀ s t : State, Running s → boundary s = .next t → ByteIn t.ip →
    (reservedFirst (t.byteAt t.ip).toNat = true ∨
      ((t.byteAt t.ip).toNat ≤ 0x47 ∧ WordIn t.ip ∧
        legalBin (t.byteAt t.ip).toNat (t.mem.read (t.ip.toNat + 1)).toNat = false)) →
    step s = .fault (.invalidInstruction t.console)

/-- A fetch of any byte outside memory ends the run with `memory-out-of-range` (R122): at once when `IP` is at or above
4000h, and also when the instruction whose first bytes stand at the top of memory runs past 3FFFh. -/
def Obligations.FetchPastMemoryFaults : Prop :=
  ∀ s t : State, Running s → boundary s = .next t →
    (0x4000 ≤ t.ip.toNat → step s = .fault (.memoryOutOfRange t.console)) ∧
    (∀ i : Instr, WellFormed i → t.ip.toNat ≤ 0x3FFF → 0x4000 < t.ip.toNat + (encode i).length →
      (∀ k : Nat, t.ip.toNat + k ≤ 0x3FFF → (encode i)[k]? = some (t.mem.read (t.ip.toNat + k))) →
      step s = .fault (.memoryOutOfRange t.console))

/-! ### The step -/

/-- A step from a running state is the boundary, then the decoded instruction with `IP` moved past its bytes, then the
internal registers left unspecified (R34, R292; that last part is log 4), under any encoding (R7) and so under the one of
30_encoding.  A boundary that stops the run stops the step.  With no host event, `IF = 0` and no line in service the
boundary changes nothing (R275, R276). -/
def Obligations.StepRunsDecodedInstruction : Prop :=
  (∀ (s t : State) (i : Instr) (rest : List Byte), Running s → boundary s = .next t →
    decode (fetchBytes t.mem t.ip maxLength) = .ok i rest → WellFormed i →
    step s = endOfInstruction (exec i (t.setIp (t.ip + BitVec.ofNat 16 i.length)))) ∧
  (∀ (enc : InstrEncoding) (s t : State) (i : Instr) (rest : List Byte), Running s → boundary s = .next t →
    enc.decode (fetchBytes t.mem t.ip enc.maxLength) = .ok i rest →
    stepWith enc s = endOfInstruction (exec i (t.setIp (t.ip + BitVec.ofNat 16 (enc.length i))))) ∧
  (∀ (s : State) (r : Fault), Running s → boundary s = .fault r → step s = .fault r) ∧
  (∀ s : State, s.hostEvents = [] → s.flags.interrupt = false → s.pic.isr = 0#8 → boundary s = .next s)

/-- The instruction whose encoding stands at `IP` is the one that runs (R121, R144, R292; `endOfInstruction` is log 4). -/
def Obligations.StepRunsEncodedInstruction : Prop :=
  ∀ (s t : State) (i : Instr), Running s → boundary s = .next t → WellFormed i →
    t.ip.toNat + (encode i).length ≤ 0x4000 →
    (∀ k : Nat, k < (encode i).length → (encode i)[k]? = some (t.mem.read (t.ip.toNat + k))) →
    step s = endOfInstruction (exec i (t.setIp (BitVec.ofNat 16 (t.ip.toNat + (encode i).length))))

/-! ### The ALU -/

/-- R170 at the two widths of the block: `AluAdd`. -/
def Obligations.AluAddFollowsR170 : Prop :=
  ∀ n : Nat, (n = 8 ∨ n = 16) → ∀ (a b : BitVec n) (c : Bool),
    Truncates n (a.toNat + b.toNat + c.toNat) (aluAdd a b c).value ∧
    ((aluAdd a b c).carry = true ↔ 2 ^ n - 1 < a.toNat + b.toNat + c.toNat) ∧
    ((aluAdd a b c).overflow = true ↔ SignedOverflow n (a.toInt + b.toInt + c.toNat)) ∧
    ((aluAdd a b c).sign = (aluAdd a b c).value.getLsbD (n - 1)) ∧
    ((aluAdd a b c).zero = true ↔ (aluAdd a b c).value = 0#n)

/-- R171 at the two widths of the block: `AluSub`. -/
def Obligations.AluSubFollowsR171 : Prop :=
  ∀ n : Nat, (n = 8 ∨ n = 16) → ∀ (a b : BitVec n) (c : Bool),
    Truncates n (a.toNat - b.toNat - c.toNat) (aluSub a b c).value ∧
    ((aluSub a b c).carry = true ↔ (a.toNat : Int) - b.toNat - c.toNat < 0) ∧
    ((aluSub a b c).overflow = true ↔ SignedOverflow n (a.toInt - b.toInt - c.toNat)) ∧
    ((aluSub a b c).sign = (aluSub a b c).value.getLsbD (n - 1)) ∧
    ((aluSub a b c).zero = true ↔ (aluSub a b c).value = 0#n)

/-! ### Binary and Unary instructions: results, flags, frames, completion -/

/-- MOV in every form (R210, R211). -/
def Obligations.MovCopiesSource : Prop := ∀ s : State, s.mem.wf = true → BinaryForms .mov MovRelation s

/-- ADD in every form (R170, R174). -/
def Obligations.AddInEveryForm : Prop := ∀ s : State, s.mem.wf = true → BinaryForms .add AddRelation s

/-- ADC in every form, the carry-in read before it is written (R170, R175). -/
def Obligations.AdcInEveryForm : Prop := ∀ s : State, s.mem.wf = true → BinaryForms .adc AdcRelation s

/-- SUB in every form (R171, R176). -/
def Obligations.SubInEveryForm : Prop := ∀ s : State, s.mem.wf = true → BinaryForms .sub SubRelation s

/-- SBB in every form (R171, R177). -/
def Obligations.SbbInEveryForm : Prop := ∀ s : State, s.mem.wf = true → BinaryForms .sbb SbbRelation s

/-- CMP in every form writes only the flags (R171, R178). -/
def Obligations.CmpWritesOnlyFlags : Prop := ∀ s : State, CompareForms s

/-- AND in every form (R200, R201). -/
def Obligations.AndInEveryForm : Prop := ∀ s : State, s.mem.wf = true → BinaryForms .and (LogicRelation (· && ·)) s

/-- OR in every form (R200, R202). -/
def Obligations.OrInEveryForm : Prop := ∀ s : State, s.mem.wf = true → BinaryForms .or (LogicRelation (· || ·)) s

/-- XOR in every form (R200, R203). -/
def Obligations.XorInEveryForm : Prop := ∀ s : State, s.mem.wf = true → BinaryForms .xor (LogicRelation Bool.xor) s

/-- INC of every operand (R180). -/
def Obligations.IncOfEveryOperand : Prop := ∀ s : State, s.mem.wf = true → UnaryForms .inc IncRelation s

/-- DEC of every operand (R181). -/
def Obligations.DecOfEveryOperand : Prop := ∀ s : State, s.mem.wf = true → UnaryForms .dec DecRelation s

/-- NEG of every operand (R179). -/
def Obligations.NegOfEveryOperand : Prop := ∀ s : State, s.mem.wf = true → UnaryForms .neg NegRelation s

/-- NOT of every operand (R200, R204). -/
def Obligations.NotOfEveryOperand : Prop := ∀ s : State, s.mem.wf = true → UnaryForms .not NotRelation s

/-- A memory operand that touches a byte outside 0000h..3FFFh faults, in every Binary and Unary form (R84, R211, R174). -/
def Obligations.MemoryOperandsOutsideFault : Prop :=
  ∀ (s : State) (op : BinOp) (un : UnOp) (a : Word) (d8 : Reg8) (d16 : Reg16) (v8 : Byte) (v16 : Word),
    (¬ ByteIn a →
      exec (.ofBin op (.regMem (.byte d8) a)) s = .fault (.memoryOutOfRange s.console) ∧
      exec (.ofBin op (.memReg a (.byte d8))) s = .fault (.memoryOutOfRange s.console) ∧
      exec (.ofBin op (.memImm a (.byte v8))) s = .fault (.memoryOutOfRange s.console) ∧
      exec (.ofUn un (.mem .byte a)) s = .fault (.memoryOutOfRange s.console)) ∧
    (¬ WordIn a →
      exec (.ofBin op (.regMem (.word d16) a)) s = .fault (.memoryOutOfRange s.console) ∧
      exec (.ofBin op (.memReg a (.word d16))) s = .fault (.memoryOutOfRange s.console) ∧
      exec (.ofBin op (.memImm a (.word v16))) s = .fault (.memoryOutOfRange s.console) ∧
      exec (.ofUn un (.mem .word a)) s = .fault (.memoryOutOfRange s.console)) ∧
    (¬ ByteIn s.bx →
      exec (.ofBin op (.regBx (.byte d8))) s = .fault (.memoryOutOfRange s.console) ∧
      exec (.ofBin op (.bxReg (.byte d8))) s = .fault (.memoryOutOfRange s.console) ∧
      exec (.ofBin op (.bxImm (.byte v8))) s = .fault (.memoryOutOfRange s.console) ∧
      exec (.ofUn un (.bx .byte)) s = .fault (.memoryOutOfRange s.console)) ∧
    (¬ WordIn s.bx →
      exec (.ofBin op (.regBx (.word d16))) s = .fault (.memoryOutOfRange s.console) ∧
      exec (.ofBin op (.bxReg (.word d16))) s = .fault (.memoryOutOfRange s.console) ∧
      exec (.ofBin op (.bxImm (.word v16))) s = .fault (.memoryOutOfRange s.console) ∧
      exec (.ofUn un (.bx .word)) s = .fault (.memoryOutOfRange s.console))

/-! ### Registers and memory -/

/-- The byte registers alias the halves of their word registers: a write of a half changes those 8 bits only (R31). -/
def Obligations.ByteRegistersAlias : Prop :=
  (∀ s : State,
    (s.reg8 .al).toNat = s.ax.toNat % 256 ∧ (s.reg8 .ah).toNat = s.ax.toNat / 256 ∧
    (s.reg8 .bl).toNat = s.bx.toNat % 256 ∧ (s.reg8 .bh).toNat = s.bx.toNat / 256 ∧
    (s.reg8 .cl).toNat = s.cx.toNat % 256 ∧ (s.reg8 .ch).toNat = s.cx.toNat / 256 ∧
    (s.reg8 .dl).toNat = s.dx.toNat % 256 ∧ (s.reg8 .dh).toNat = s.dx.toNat / 256) ∧
  (∀ (s : State) (d : Reg8) (v : Byte),
    (s.setReg8 d v).reg8 d = v ∧ (∀ r : Reg8, r ≠ d → (s.setReg8 d v).reg8 r = s.reg8 r) ∧ (s.setReg8 d v).sp = s.sp)

/-- The memory primitives of R84: what each reads or writes, and when it faults.  A write changes no other byte. -/
def Obligations.MemoryPrimitivesFollowR84 : Prop :=
  ∀ (s : State) (a : Word),
    (ByteIn a → s.memRead8 a = .next (s.byteAt a)) ∧
    (¬ ByteIn a → s.memRead8 a = .fault (.memoryOutOfRange s.console)) ∧
    (WordIn a → s.memRead16 a = .next (s.wordAt a)) ∧
    (¬ WordIn a → s.memRead16 a = .fault (.memoryOutOfRange s.console)) ∧
    (∀ v : Byte, s.mem.wf = true → ByteIn a → ∃ t, s.memWrite8 a v = .next t ∧ t.byteAt a = v ∧
      SameMemoryBut1 s t a ∧ t = { s with mem := t.mem }) ∧
    (∀ v : Byte, ¬ ByteIn a → s.memWrite8 a v = .fault (.memoryOutOfRange s.console)) ∧
    (∀ v : Word, s.mem.wf = true → WordIn a → ∃ t, s.memWrite16 a v = .next t ∧
      (t.mem.read a.toNat).toNat = v.toNat % 256 ∧ (t.mem.read (a.toNat + 1)).toNat = v.toNat / 256 ∧
      SameMemoryBut2 s t a ∧ t = { s with mem := t.mem }) ∧
    (∀ v : Word, ¬ WordIn a → s.memWrite16 a v = .fault (.memoryOutOfRange s.console))

/-- Accesses of both widths to the same bytes see one another exactly (R85). -/
def Obligations.MixedWidthAccessesAgree : Prop :=
  ∀ (s t u : State) (a : Word), s.mem.wf = true → WordIn a →
    (∀ v : Word, s.memWrite16 a v = .next t →
      t.memRead8 a = .next (BitVec.ofNat 8 (v.toNat % 256)) ∧
      t.memRead8 (a + 1#16) = .next (BitVec.ofNat 8 (v.toNat / 256))) ∧
    (∀ b0 b1 : Byte, s.memWrite8 a b0 = .next t → t.memWrite8 (a + 1#16) b1 = .next u →
      u.memRead16 a = .next (BitVec.ofNat 16 (b0.toNat + 256 * b1.toNat)))

/-- Canonical memories that hold the same bytes are the same list (R42; the form is the model's own, log 1). -/
def Obligations.EqualBytesMeanEqualMemories : Prop :=
  ∀ m m' : Memory, m.wf = true → m'.wf = true → (∀ a : Nat, a < 0x4000 → m.read a = m'.read a) → m = m'

/-- The FLAGS word: its five bits at their places, all others 0, loaded back from the same places (R39). -/
def Obligations.FlagsWordLayout : Prop :=
  (∀ f : Flags, f.toWord.toNat = flagsNat f) ∧
  (∀ (s : State) (w : Word), FlagsFrom (s.loadFlags w).flags w.toNat ∧
    s.loadFlags w = { s with flags := (s.loadFlags w).flags }) ∧
  (∀ f : Flags, Flags.ofWord f.toWord = f)

/-! ### The stack -/

/-- PUSH of each word register; `PUSH SP` pushes the old `SP` (R215, R217). -/
def Obligations.PushStoresRegister : Prop :=
  ∀ (s : State) (r : Reg16), s.mem.wf = true → CanPush s →
    ∃ t, exec (.push r) s = .next t ∧ Pushed s t (s.reg16 r).toNat ∧ t.ip = s.ip ∧ t.flags = s.flags

/-- POP into each word register; `POP SP` leaves the popped word (R216, R218). -/
def Obligations.PopLoadsRegister : Prop :=
  ∀ (s : State) (r : Reg16), CanPop s →
    ∃ t, exec (.pop r) s = .next t ∧ (t.reg16 r).toNat = s.wordNatAt s.sp ∧
      (r ≠ .sp → t.sp.toNat = s.sp.toNat + 2) ∧ (∀ q : Reg16, q ≠ r → q ≠ .sp → t.reg16 q = s.reg16 q) ∧
      SameOutside s t ∧ SameMemory s t ∧ t.ip = s.ip ∧ t.flags = s.flags

/-- PUSHF pushes the FLAGS word; POPF loads all five flags, `IF` among them (R39, R219, R220). -/
def Obligations.PushfAndPopfMoveFlags : Prop :=
  ∀ s : State,
    (s.mem.wf = true → CanPush s →
      ∃ t, exec .pushf s = .next t ∧ Pushed s t (flagsNat s.flags) ∧ t.ip = s.ip ∧ t.flags = s.flags) ∧
    (CanPop s →
      ∃ t, exec .popf s = .next t ∧ FlagsFrom t.flags (s.wordNatAt s.sp) ∧ t.sp.toNat = s.sp.toNat + 2 ∧
        SameRegistersButSp s t ∧ SameOutside s t ∧ SameMemory s t ∧ t.ip = s.ip)

/-- When a push or a pop leaves memory: `stack-overflow` with `SP < 2`, `memory-out-of-range` with `SP` above 4000h,
`stack-underflow` with `SP > 3FFEh` (R215, R216, R260).  A hardware interrupt due at a boundary faults on its pushes as
INT n does, and so does the step. -/
def Obligations.StackBoundsFault : Prop :=
  ∀ (s : State) (r : Reg16) (addr : Word) (n : Byte),
    (s.sp.toNat < 2 → ∀ i ∈ [Instr.push r, .pushf, .call addr, .intN n, .int6, .int7],
      exec i s = .fault (.stackOverflow s.console)) ∧
    (0x4001 ≤ s.sp.toNat → ∀ i ∈ [Instr.push r, .pushf, .call addr, .intN n, .int6, .int7],
      exec i s = .fault (.memoryOutOfRange s.console)) ∧
    (0x3FFF ≤ s.sp.toNat → ∀ i ∈ [Instr.pop r, .popf, .ret, .iret], exec i s = .fault (.stackUnderflow s.console)) ∧
    (s.sp.toNat = 2 ∨ s.sp.toNat = 3 → exec (.intN n) s = .fault (.stackOverflow s.console)) ∧
    (s.sp.toNat = 0x3FFD ∨ s.sp.toNat = 0x3FFE → exec .iret s = .fault (.stackUnderflow s.console)) ∧
    (∀ (u : State) (line : Fin 8), Running s → AfterEvents s u → Selected u line →
      u.pic.vec[line] ∉ u.params.reservedIds →
      (u.sp.toNat < 4 → boundary s = .fault (.stackOverflow u.console) ∧ step s = .fault (.stackOverflow u.console)) ∧
      (0x4001 ≤ u.sp.toNat →
        boundary s = .fault (.memoryOutOfRange u.console) ∧ step s = .fault (.memoryOutOfRange u.console)))

/-! ### I/O -/

/-- `IORead` returns what R93's table gives, or 00h, and `IOWrite` does what the table says, or nothing, where
`IoInvalid` is false; where it is true the access faults before any effect (R93 to R98).  For every choice of the bases
(R7); which register has a port that two of them share is log 20. -/
def Obligations.PortsFollowTheTable : Prop :=
  ∀ (s : State) (p b : Byte),
    (PortAllowed s p .read → s.ioRead p = .next (portValue s p.toNat)) ∧
    (PortAllowed s p .write → s.ioWrite p b = .next (portWritten s p.toNat b)) ∧
    (¬ PortAllowed s p .read → s.ioRead p = .fault (.ioInvalidDeviceState s.console)) ∧
    (¬ PortAllowed s p .write → s.ioWrite p b = .fault (.ioInvalidDeviceState s.console))

/-- IN reads one port into AL or two into AX, low byte first; only that register changes, no device does (R95, R225 to
R227).  Where the chosen bases give two registers one port, which of them is read is the model's choice (log 20). -/
def Obligations.InReadsPorts : Prop :=
  ∀ (s : State) (port : Byte),
    (PortAllowed s port .read →
      ∃ t, exec (.inPort .byte port) s = .next t ∧ OnlyReg8 s t .al ∧ t.reg8 .al = portValue s port.toNat ∧
        t.flags = s.flags) ∧
    (PortAllowed s port .read → PortAllowed s (nextPort port) .read →
      ∃ t, exec (.inPort .word port) s = .next t ∧ OnlyReg16 s t .ax ∧ t.flags = s.flags ∧
        t.ax.toNat = (portValue s port.toNat).toNat + 256 * (portValue s (nextPort port).toNat).toNat) ∧
    (port.toNat = s.dx.toNat % 256 → PortAllowed s port .read →
      ∃ t, exec (.inDx .byte) s = .next t ∧ OnlyReg8 s t .al ∧ t.reg8 .al = portValue s port.toNat ∧
        t.flags = s.flags) ∧
    (port.toNat = s.dx.toNat % 256 → PortAllowed s port .read → PortAllowed s (nextPort port) .read →
      ∃ t, exec (.inDx .word) s = .next t ∧ OnlyReg16 s t .ax ∧ t.flags = s.flags ∧
        t.ax.toNat = (portValue s port.toNat).toNat + 256 * (portValue s (nextPort port).toNat).toNat)

/-- OUT writes AL to one port, or AX to two in order, and changes nothing else (R96, R225, R226, R228).  Where the chosen
bases give two registers one port, which of them is written is the model's choice (log 20). -/
def Obligations.OutWritesPorts : Prop :=
  ∀ (s : State) (port : Byte),
    (PortAllowed s port .write →
      exec (.outPort .byte port) s = .next (portWritten s port.toNat (BitVec.ofNat 8 s.ax.toNat))) ∧
    (PortAllowed s port .write → PortAllowed s (nextPort port) .write →
      exec (.outPort .word port) s =
        .next (portWritten (portWritten s port.toNat (BitVec.ofNat 8 s.ax.toNat)) (nextPort port).toNat
          (BitVec.ofNat 8 (s.ax.toNat / 256)))) ∧
    (port.toNat = s.dx.toNat % 256 → PortAllowed s port .write →
      exec (.outDx .byte) s = .next (portWritten s port.toNat (BitVec.ofNat 8 s.ax.toNat))) ∧
    (port.toNat = s.dx.toNat % 256 → PortAllowed s port .write → PortAllowed s (nextPort port) .write →
      exec (.outDx .word) s =
        .next (portWritten (portWritten s port.toNat (BitVec.ofNat 8 s.ax.toNat)) (nextPort port).toNat
          (BitVec.ofNat 8 (s.ax.toNat / 256))))

/-- An IN or OUT whose access `IoInvalid` forbids raises `io-invalid-device-state`, for a word at either port (R98,
R227, R228). -/
def Obligations.InvalidPortsFault : Prop :=
  ∀ (s : State) (port : Byte),
    (¬ PortAllowed s port .read → ∀ w : Size,
      exec (.inPort w port) s = .fault (.ioInvalidDeviceState s.console) ∧
      (port.toNat = s.dx.toNat % 256 → exec (.inDx w) s = .fault (.ioInvalidDeviceState s.console))) ∧
    (¬ PortAllowed s (nextPort port) .read →
      exec (.inPort .word port) s = .fault (.ioInvalidDeviceState s.console) ∧
      (port.toNat = s.dx.toNat % 256 → exec (.inDx .word) s = .fault (.ioInvalidDeviceState s.console))) ∧
    (¬ PortAllowed s port .write → ∀ w : Size,
      exec (.outPort w port) s = .fault (.ioInvalidDeviceState s.console) ∧
      (port.toNat = s.dx.toNat % 256 → exec (.outDx w) s = .fault (.ioInvalidDeviceState s.console))) ∧
    (¬ PortAllowed s (nextPort port) .write →
      exec (.outPort .word port) s = .fault (.ioInvalidDeviceState s.console) ∧
      (port.toNat = s.dx.toNat % 256 → exec (.outDx .word) s = .fault (.ioInvalidDeviceState s.console)))

/-- Outside OUT, no instruction changes a device register; and no instruction at all changes `IRR` or `ISR` (R43, R44,
R229), nor the switches or the parameters (the model's choice: logs 13 and 8). -/
def Obligations.OnlyOutWritesDevices : Prop :=
  ∀ (i : Instr) (s t : State), exec i s = .next t →
    ((∀ w p, i ≠ .outPort w p) → (∀ w, i ≠ .outDx w) →
      t.pic = s.pic ∧ t.pio = s.pio ∧ t.timer = s.timer ∧ t.hs = s.hs) ∧
    t.pic.irr = s.pic.irr ∧ t.pic.isr = s.pic.isr ∧ t.switches = s.switches ∧ t.params = s.params

/-! ### Control transfer -/

/-- JMP and the eight conditional jumps: the target where the condition holds, else `IP` left alone; nothing else
changes (R230 to R239). -/
def Obligations.JumpsMoveOnlyIp : Prop :=
  ∀ (s : State) (addr : Word),
    exec (.jmp addr) s = .next { s with ip := addr } ∧
    exec (.jz addr) s = .next { s with ip := if s.flags.zero then addr else s.ip } ∧
    exec (.jnz addr) s = .next { s with ip := if s.flags.zero then s.ip else addr } ∧
    exec (.jc addr) s = .next { s with ip := if s.flags.carry then addr else s.ip } ∧
    exec (.jnc addr) s = .next { s with ip := if s.flags.carry then s.ip else addr } ∧
    exec (.js addr) s = .next { s with ip := if s.flags.sign then addr else s.ip } ∧
    exec (.jns addr) s = .next { s with ip := if s.flags.sign then s.ip else addr } ∧
    exec (.jo addr) s = .next { s with ip := if s.flags.overflow then addr else s.ip } ∧
    exec (.jno addr) s = .next { s with ip := if s.flags.overflow then s.ip else addr }

/-- CALL pushes the address of the instruction after it and jumps; RET pops `IP` and touches no flag (R240, R241). -/
def Obligations.CallAndRetMoveIp : Prop :=
  ∀ (s : State) (addr : Word),
    (s.mem.wf = true → CanPush s →
      ∃ t, exec (.call addr) s = .next t ∧ Pushed s t s.ip.toNat ∧ t.ip = addr ∧ t.flags = s.flags) ∧
    (CanPop s →
      ∃ t, exec .ret s = .next t ∧ t.ip.toNat = s.wordNatAt s.sp ∧ t.sp.toNat = s.sp.toNat + 2 ∧
        SameRegistersButSp s t ∧ SameOutside s t ∧ SameMemory s t ∧ t.flags = s.flags)

/-- IRET pops `IP`, then FLAGS; the PIC is not touched (R242, R272). -/
def Obligations.IretPopsIpAndFlags : Prop :=
  ∀ s : State, CanPopTwice s →
    ∃ t, exec .iret s = .next t ∧ t.ip.toNat = s.wordNatAt s.sp ∧
      FlagsFrom t.flags (s.wordNatAt (s.sp + 2#16)) ∧ t.sp.toNat = s.sp.toNat + 4 ∧
      SameRegistersButSp s t ∧ SameOutside s t ∧ SameMemory s t

/-! ### Software interrupts and the rest -/

/-- `INT n` enters its vector, for every `n` the row admits and whatever `IF` or `RESERVED_IDS` is (R246, R251). -/
def Obligations.IntEntersVector : Prop :=
  ∀ (s : State) (n : Byte), s.mem.wf = true → CanPushTwice s → WellFormed (.intN n) →
    ∃ t, exec (.intN n) s = .next t ∧ EnteredVector s t n s.ip ∧ SameOutside s t

/-- After `INT n; IRET` every register and flag is as before the INT, `IP` included, and so is all memory but the four
bytes below `SP` (R243). -/
def Obligations.IntThenIretRestores : Prop :=
  ∀ (s t : State) (n : Byte), s.mem.wf = true → CanPushTwice s → exec (.intN n) s = .next t →
    ∃ u, exec .iret t = .next u ∧ SameRegisters s u ∧ u.ip = s.ip ∧ u.flags = s.flags ∧ SameOutside s u ∧
      ∀ b : Nat, b + 4 < s.sp.toNat ∨ s.sp.toNat ≤ b → u.mem.read b = s.mem.read b

/-- HLT and INT 0 end the run: the status becomes `halted`, nothing else changes, and no later step changes anything
(R247, R255, R257, R48; that a halted machine stays as it is under `step` is log 10). -/
def Obligations.HaltIsForGood : Prop :=
  ∀ (s : State) (i : Instr), i = .hlt ∨ i = .int0 →
    ∃ t, exec i s = .next t ∧ t = { s with status := .halted } ∧ ∀ k : Nat, Sys2Proof.core.run k t = .next t

/-- INT 6 with the host's byte at hand: the byte is stored at `[BX]`, the FLAGS word stays below `SP`, and the flags are
loaded from that word as memory stands after the store; with `BX` outside memory it faults (R249, R287; the answer within
the step is log 3). -/
def Obligations.Int6StoresHostByte : Prop :=
  ∀ (s : State) (b : Byte) (later : List Byte), s.mem.wf = true → CanPush s → s.keyboard = b :: later → Running s →
    (ByteIn s.bx →
      ∃ t, exec .int6 s = .next t ∧ t = { s with mem := t.mem, flags := t.flags, keyboard := later } ∧
        StoredOverFlags s t b (flagsNat s.flags) ∧ FlagsFrom t.flags (t.wordNatAt (s.sp - 2#16))) ∧
    (¬ ByteIn s.bx → exec .int6 s = .fault (.memoryOutOfRange s.console))

/-- INT 6 with no answer yet waits with FLAGS pushed and `IF = 0`; a step of the waiting machine changes nothing until
the host's byte is there, and then stores it, pops FLAGS and changes nothing else but the internal registers, or faults
where `BX` is outside memory (R249, R287, R291; the waiting step is logs 3 and 10, the internal registers log 4). -/
def Obligations.Int6WaitsForHost : Prop :=
  ∀ s : State, s.mem.wf = true → CanPush s → s.keyboard = [] →
    ∃ t, exec .int6 s = .next t ∧ t.status = .awaitingInput ∧ t.flags = { s.flags with interrupt := false } ∧
      Pushed s { t with status := s.status } (flagsNat s.flags) ∧ t.ip = s.ip ∧ step t = .next t ∧
      ∀ (b : Byte) (later : List Byte),
        (ByteIn s.bx →
          ∃ u, step { t with keyboard := b :: later } = .next u ∧
            u = { s with mem := u.mem, flags := u.flags, keyboard := later, status := .running,
                         internal := u.internal, draws := u.draws } ∧
            StoredOverFlags s u b (flagsNat s.flags) ∧ FlagsFrom u.flags (u.wordNatAt (s.sp - 2#16))) ∧
        (¬ ByteIn s.bx → step { t with keyboard := b :: later } = .fault (.memoryOutOfRange s.console))

/-- INT 7 appends the `AL` bytes at `[BX]` to the console; flags and registers are as before, and only the FLAGS word
below `SP` is written.  Where the bytes run off memory it faults, with those before the faulting one already on the
console (R250). -/
def Obligations.Int7PrintsBytes : Prop :=
  ∀ s : State, s.mem.wf = true → CanPush s →
    (s.ax.toNat % 256 = 0 ∨ s.bx.toNat + s.ax.toNat % 256 ≤ 0x4000 →
      ∃ t, exec .int7 s = .next t ∧ t = { s with mem := t.mem, console := t.console } ∧
        t.console = s.console ++ (List.range (s.ax.toNat % 256)).map (fun k => t.mem.read (s.bx.toNat + k)) ∧
        t.wordNatAt (s.sp - 2#16) = flagsNat s.flags ∧ SameMemoryBut2 s t (s.sp - 2#16)) ∧
    (s.ax.toNat % 256 ≠ 0 → 0x4000 < s.bx.toNat + s.ax.toNat % 256 →
      ∃ t, exec .pushf s = .next t ∧ exec .int7 s = .fault (.memoryOutOfRange
        (s.console ++ (List.range (0x4000 - s.bx.toNat)).map (fun k => t.mem.read (s.bx.toNat + k)))))

/-- CLI clears `IF`, STI sets it, NOP does nothing, INT 3 records one breakpoint, which the model
counts (log 12): nothing else changes (R248, R253, R254, R256). -/
def Obligations.SimpleInstructionFrames : Prop :=
  ∀ s : State,
    exec .cli s = .next { s with flags := { s.flags with interrupt := false } } ∧
    exec .sti s = .next { s with flags := { s.flags with interrupt := true } } ∧
    exec .nop s = .next s ∧
    exec .int3 s = .next { s with breakpoints := s.breakpoints + 1 }

/-- R37's table: an instruction leaves every flag the table does not list for it as it was.  INT 6 is the exception the
table's note makes (its FLAGS word can be overwritten by the input byte). -/
def Obligations.UnlistedFlagsUnchanged : Prop :=
  (∀ (op : BinOp) (f : BinForm) (s t : State), exec (.ofBin op f) s = .next t →
    KeepsFlagsOutside (binFlagWrites op) s.flags t.flags) ∧
  (∀ (op : UnOp) (f : UnForm) (s t : State), exec (.ofUn op f) s = .next t →
    KeepsFlagsOutside (unFlagWrites op) s.flags t.flags) ∧
  (∀ (s t : State) (r : Reg16) (addr : Word) (w : Size) (port : Byte), ∀ i ∈ [Instr.push r, .pop r, .pushf,
      .inPort w port, .inDx w, .outPort w port, .outDx w, .jmp addr, .jz addr, .jnz addr, .jc addr, .jnc addr, .js addr,
      .jns addr, .jo addr, .jno addr, .call addr, .ret, .nop, .hlt, .int0, .int3],
    exec i s = .next t → t.flags = s.flags) ∧
  (∀ (s t : State) (n : Byte), ∀ i ∈ [Instr.cli, .intN n], exec i s = .next t →
    t.flags = { s.flags with interrupt := false }) ∧
  (∀ s t : State, exec .sti s = .next t → t.flags = { s.flags with interrupt := true }) ∧
  (∀ s t : State, s.mem.wf = true → exec .int7 s = .next t → t.flags = s.flags)

/-! ### The boundary: PIC, interrupt entry, devices -/

/-- `PIC.update()` in each of its cases (R275 to R279): the EOI; blocked by a line in service or by `IF`; nothing
eligible; the lowest eligible line with a reserved vector; the same with any other vector.  It runs at every boundary,
after the host events in the schedule's order (log 3), and what it selects is dispatched there (R292, R294). -/
def Obligations.PicUpdateFollowsR275 : Prop :=
  ∀ s : State,
    (s.pic.isr ≠ 0#8 → s.pic.eoi = 0x20#8 →
      picUpdate s = .next (none, { s with pic.isr := 0#8, pic.eoi := 0#8 })) ∧
    (s.pic.isr ≠ 0#8 → s.pic.eoi ≠ 0x20#8 → picUpdate s = .next (none, s)) ∧
    (s.pic.isr = 0#8 → s.flags.interrupt = false → picUpdate s = .next (none, s)) ∧
    (s.pic.isr = 0#8 → s.flags.interrupt = true →
      (∀ k : Nat, k < 8 → s.pic.irr.getLsbD k = true → s.pic.imr.getLsbD k = true) → picUpdate s = .next (none, s)) ∧
    (∀ n : Fin 8, Selected s n →
      (s.pic.vec[n] ∈ s.params.reservedIds → picUpdate s = .fault (.reservedInterrupt s.console)) ∧
      (s.pic.vec[n] ∉ s.params.reservedIds →
        ∃ p : Pic, picUpdate s = .next (some s.pic.vec[n], { s with pic := p }) ∧
          p.imr = s.pic.imr ∧ p.vec = s.pic.vec ∧ p.eoi = 0#8 ∧
          ∀ k : Nat, k < 8 → p.irr.getLsbD k = (s.pic.irr.getLsbD k && decide (k ≠ n)) ∧
            p.isr.getLsbD k = decide (k = n))) ∧
    (∀ u : State, AfterEvents s u →
      (∀ t, picUpdate u = .next (none, t) → boundary s = .next t) ∧
      (∀ id t, picUpdate u = .next (some id, t) → boundary s = t.enterInterrupt id) ∧
      ∀ r, picUpdate u = .fault r → boundary s = .fault r)

/-- A hardware interrupt is entered at the boundary, after its host events: the lowest eligible line is acknowledged and
its vector entered with the address of the next instruction as the return address; nothing else changes (R270, R271,
R277, R279, R292, R294; the schedule of events is log 3).  The step then runs the handler's first instruction. -/
def Obligations.HardwareInterruptEntry : Prop :=
  ∀ (s u : State) (n : Fin 8), AfterEvents s u → u.mem.wf = true → CanPushTwice u → Selected u n →
    u.pic.vec[n] ∉ u.params.reservedIds →
    ∃ t, boundary s = .next t ∧ EnteredVector u t u.pic.vec[n] u.ip ∧
      t.pic.imr = u.pic.imr ∧ t.pic.vec = u.pic.vec ∧ t.pic.eoi = 0#8 ∧
      (∀ k : Nat, k < 8 → t.pic.irr.getLsbD k = (u.pic.irr.getLsbD k && decide (k ≠ n)) ∧
        t.pic.isr.getLsbD k = decide (k = n)) ∧
      t = { u with sp := t.sp, ip := t.ip, flags := t.flags, mem := t.mem, pic := t.pic } ∧
      ∀ (i : Instr) (rest : List Byte), Running s → WellFormed i →
        decode (fetchBytes t.mem (t.ip) maxLength) = .ok i rest →
        step s = endOfInstruction (exec i (t.setIp (t.ip + BitVec.ofNat 16 i.length)))

/-- With `IF = 0`, or with a line in service, a boundary enters no interrupt: after its host events registers, `IP`,
flags, memory and every pending request stay (R273, R276, R294; the schedule of events is log 3). -/
def Obligations.BlockedBoundaryEntersNothing : Prop :=
  ∀ s u : State, AfterEvents s u → (u.flags.interrupt = false ∨ u.pic.isr ≠ 0#8) →
    ∃ t, boundary s = .next t ∧ t = { u with pic := t.pic } ∧ t.pic.irr = u.pic.irr ∧ t.pic.imr = u.pic.imr ∧
      t.pic.vec = u.pic.vec

/-- `TimerTick()`: CONT goes up by one mod 256 and then, where it equals COMP, the timer's line is requested; nothing else
changes (R281, R284). -/
def Obligations.TimerTickCounts : Prop :=
  ∀ s : State, ∃ t, s.hostEvent .clockTick = .next t ∧
    t.timer.cont.toNat = (s.timer.cont.toNat + 1) % 256 ∧ t.timer.comp = s.timer.comp ∧
    (∀ k : Nat, k < 8 → t.pic.irr.getLsbD k =
      (s.pic.irr.getLsbD k || (decide (k = s.params.timerLine) && decide (t.timer.cont = s.timer.comp)))) ∧
    t = { s with timer := t.timer, pic := { s.pic with irr := t.pic.irr } }

/-- `PrinterDone()` while BUSY: DATA goes to the console, BUSY is cleared, and with IE the handshake's line is requested;
nothing else changes.  While not BUSY the model refuses it (R285, R290; the refusal is log 7). -/
def Obligations.PrinterDonePrints : Prop :=
  ∀ s : State,
    (s.hs.state.getLsbD 0 = true → ∃ t, s.hostEvent .printerDone = .next t ∧
      t.console = s.console ++ [s.hs.data] ∧ t.hs.data = s.hs.data ∧
      (∀ k : Nat, k < 8 → t.hs.state.getLsbD k = (s.hs.state.getLsbD k && decide (k ≠ 0))) ∧
      (∀ k : Nat, k < 8 → t.pic.irr.getLsbD k =
        (s.pic.irr.getLsbD k || (decide (k = s.params.hsLine) && s.hs.state.getLsbD 7))) ∧
      t = { s with console := t.console, hs := t.hs, pic := { s.pic with irr := t.pic.irr } }) ∧
    (s.hs.state.getLsbD 0 = false → s.hostEvent .printerDone = .refused .printerDoneWhileIdle)

/-- `request(n)`, `cancel(n)` and the F10 press change one bit of `IRR` and nothing else (R281, R283, R286). -/
def Obligations.RequestsChangeOneBit : Prop :=
  ∀ (s : State) (n : Fin 8),
    (∃ t, s.hostEvent (.request n) = .next t ∧ t = { s with pic := { s.pic with irr := t.pic.irr } } ∧
      ∀ k : Nat, k < 8 → t.pic.irr.getLsbD k = (s.pic.irr.getLsbD k || decide (k = n))) ∧
    (∃ t, s.hostEvent (.cancel n) = .next t ∧ t = { s with pic := { s.pic with irr := t.pic.irr } } ∧
      ∀ k : Nat, k < 8 → t.pic.irr.getLsbD k = (s.pic.irr.getLsbD k && decide (k ≠ n))) ∧
    (∃ t, s.hostEvent .f10Press = .next t ∧ t = { s with pic := { s.pic with irr := t.pic.irr } } ∧
      ∀ k : Nat, k < 8 → t.pic.irr.getLsbD k = (s.pic.irr.getLsbD k || decide (k = 0)))

/-- A CPU write to PA or PB (any OUT form goes through `ioWrite`) changes only the output bits; an external drive and a
switch toggle change only the input bits (R97, R288).  For every base of the PIO that gives PA and PB a port of their own
(R7, log 20). -/
def Obligations.PioDirectionsSeparate : Prop :=
  ∀ (s : State) (b : Byte),
    (s.ports.Nodup → PortAllowed s s.params.pioBase .write →
      ∃ t, s.ioWrite s.params.pioBase b = .next t ∧ t = { s with pio := { s.pio with pa := t.pio.pa } } ∧
        (s.reg8 .al = b → exec (.outPort .byte s.params.pioBase) s = .next t) ∧
        ∀ k : Nat, k < 8 →
          t.pio.pa.getLsbD k = if s.pio.ca.getLsbD k then b.getLsbD k else s.pio.pa.getLsbD k) ∧
    (s.ports.Nodup → PortAllowed s (nextPort s.params.pioBase) .write →
      ∃ t, s.ioWrite (nextPort s.params.pioBase) b = .next t ∧ t = { s with pio := { s.pio with pb := t.pio.pb } } ∧
        (s.reg8 .al = b → exec (.outPort .byte (nextPort s.params.pioBase)) s = .next t) ∧
        ∀ k : Nat, k < 8 →
          t.pio.pb.getLsbD k = if s.pio.cb.getLsbD k then b.getLsbD k else s.pio.pb.getLsbD k) ∧
    (∃ t, s.hostEvent (.pioDriveA b) = .next t ∧ t = { s with pio := { s.pio with pa := t.pio.pa } } ∧
      ∀ k : Nat, k < 8 →
        t.pio.pa.getLsbD k = if s.pio.ca.getLsbD k then s.pio.pa.getLsbD k else b.getLsbD k) ∧
    (∃ t, s.hostEvent (.pioDriveB b) = .next t ∧ t = { s with pio := { s.pio with pb := t.pio.pb } } ∧
      ∀ k : Nat, k < 8 →
        t.pio.pb.getLsbD k = if s.pio.cb.getLsbD k then s.pio.pb.getLsbD k else b.getLsbD k) ∧
    (∀ i : Fin 8, s.params.deviceConfig = .pioSwitchesLeds →
      ∃ t, s.hostEvent (.switchToggle i) = .next t ∧
        t = { s with switches := t.switches, pio := { s.pio with pa := t.pio.pa } } ∧
        ∀ k : Nat, k < 8 → t.switches.getLsbD k = (s.switches.getLsbD k != decide (k = i)) ∧
          t.pio.pa.getLsbD k = if s.pio.ca.getLsbD k then s.pio.pa.getLsbD k else t.switches.getLsbD k)

/-! ### The whole machine -/

/-- Over every step the console output sequence only grows at its end (R48, R290), and the parameters stay (the model's
choice: log 8). -/
def Obligations.ConsoleGrowsParametersStay : Prop :=
  ∀ s t : State, step s = .next t → (∃ out : List Byte, t.console = s.console ++ out) ∧ t.params = s.params

end
end

