-- ==== Sys2Proof/Laws/Memory.lean ====
section
/-! SUPPORT. The laws of the canonical memory: read after write, every operation keeps the form. -/

namespace Sys2Proof.Machine

theorem wfFrom_cons {lo k : Nat} {v : Byte} {m : Memory} :
    Memory.wfFrom lo ((k, v) :: m) = true ↔
      lo ≤ k ∧ k < Config.memSize ∧ v ≠ 0#8 ∧ Memory.wfFrom (k + 1) m = true := by
  simp [Memory.wfFrom, and_assoc]

theorem wfFrom_mono {lo lo' : Nat} (h : lo' ≤ lo) {m : Memory} (hm : Memory.wfFrom lo m = true) :
    Memory.wfFrom lo' m = true := by
  cases m with
  | nil => rfl
  | cons c m =>
    obtain ⟨k, v⟩ := c
    rw [wfFrom_cons] at hm ⊢
    exact ⟨Nat.le_trans h hm.1, hm.2⟩

theorem read_below {lo a : Nat} (h : a < lo) {m : Memory} (hm : Memory.wfFrom lo m = true) : m.read a = 0#8 := by
  induction m generalizing lo with
  | nil => rfl
  | cons c m ih =>
    obtain ⟨k, v⟩ := c
    rw [wfFrom_cons] at hm
    have hka : k ≠ a := by omega
    simp only [Memory.read, hka, if_false]
    exact ih (by omega) hm.2.2.2

theorem read_above {lo a : Nat} (h : Config.memSize ≤ a) {m : Memory} (hm : Memory.wfFrom lo m = true) :
    m.read a = 0#8 := by
  induction m generalizing lo with
  | nil => rfl
  | cons c m ih =>
    obtain ⟨k, v⟩ := c
    rw [wfFrom_cons] at hm
    have hka : k ≠ a := by omega
    simp only [Memory.read, hka, if_false]
    exact ih hm.2.2.2

theorem read_write_from {lo : Nat} {m : Memory} (hm : Memory.wfFrom lo m = true) (a b : Nat) (v : Byte) :
    (m.write a v).read b = if b = a then v else m.read b := by
  induction m generalizing lo with
  | nil =>
    by_cases hv : v = 0#8 <;> simp [Memory.write, Memory.read, hv, eq_comm]
  | cons c m ih =>
    obtain ⟨k, w⟩ := c
    rw [wfFrom_cons] at hm
    have hlow : ∀ x, x ≤ k → Memory.read m x = 0#8 := fun x hx => read_below (by omega) hm.2.2.2
    unfold Memory.write
    by_cases h1 : a < k
    · by_cases hv : v = 0#8
      · by_cases hb : b = a
        · subst hb
          have : k ≠ b := by omega
          simp [h1, hv, Memory.read, this, hlow b (by omega)]
        · simp [h1, hv, hb]
      · simp only [h1, if_true, hv, if_false]
        by_cases hb : b = a
        · simp [Memory.read, hb]
        · have hb' : ¬ a = b := fun h => hb h.symm
          simp [Memory.read, hb, hb']
    · by_cases h2 : a = k
      · subst h2
        by_cases hv : v = 0#8
        · by_cases hb : b = a
          · subst hb; simp [hv, hlow b (by omega)]
          · have hb' : ¬ a = b := fun h => hb h.symm
            simp [hv, hb, Memory.read, hb']
        · by_cases hb : b = a
          · simp [hv, Memory.read, hb]
          · have hb' : ¬ a = b := fun h => hb h.symm
            simp [hv, Memory.read, hb, hb']
      · simp only [h1, h2, if_false, Memory.read]
        rw [ih hm.2.2.2]
        by_cases hk : k = b
        · subst hk
          have : ¬ k = a := fun h => h2 h.symm
          simp [this]
        · simp [hk]

/-- A read after a write gives the value written at that address, and the old value everywhere else. -/
theorem read_write {m : Memory} (hm : m.wf = true) (a b : Nat) (v : Byte) :
    (m.write a v).read b = if b = a then v else m.read b := read_write_from hm a b v

theorem write_wfFrom {lo : Nat} {m : Memory} (hm : Memory.wfFrom lo m = true) {a : Nat} (hlo : lo ≤ a)
    (ha : a < Config.memSize) (v : Byte) : Memory.wfFrom lo (m.write a v) = true := by
  induction m generalizing lo with
  | nil =>
    by_cases hv : v = 0#8
    · simp [Memory.write, hv, Memory.wfFrom]
    · simp [Memory.write, hv, hlo, ha, Memory.wfFrom]
  | cons c m ih =>
    obtain ⟨k, w⟩ := c
    have hm' := hm
    rw [wfFrom_cons] at hm
    unfold Memory.write
    by_cases h1 : a < k
    · by_cases hv : v = 0#8
      · simp only [h1, if_true, hv]; exact hm'
      · simp only [h1, if_true, hv, if_false]
        rw [wfFrom_cons]
        exact ⟨hlo, ha, hv, wfFrom_cons.2 ⟨by omega, hm.2⟩⟩
    · by_cases h2 : a = k
      · subst h2
        by_cases hv : v = 0#8
        · simp only [h1, if_false, hv, if_true]
          exact wfFrom_mono (by omega) hm.2.2.2
        · simp only [h1, if_false, hv, if_true]
          exact wfFrom_cons.2 ⟨hm.1, hm.2.1, hv, hm.2.2.2⟩
      · simp only [h1, h2, if_false]
        exact wfFrom_cons.2 ⟨hm.1, hm.2.1, hm.2.2.1, ih hm.2.2.2 (by omega)⟩

/-- A write to a populated address keeps the canonical form. -/
theorem write_wf {m : Memory} (hm : m.wf = true) {a : Nat} (ha : a < Config.memSize) (v : Byte) :
    (m.write a v).wf = true := write_wfFrom hm (Nat.zero_le a) ha v

/-- The empty memory is canonical. -/
theorem nil_wf : Memory.wf [] = true := rfl

/-- Filling from an address on keeps the form. -/
theorem fill_wf {m : Memory} (hm : m.wf = true) (a : Nat) (bs : List Byte) : (m.fill a bs).wf = true := by
  induction bs generalizing m a with
  | nil => exact hm
  | cons b bs ih =>
    unfold Memory.fill
    split
    · exact ih (write_wf hm (by assumption) b) (a + 1)
    · exact hm

/-- Writing an image keeps the form. -/
theorem writeImage_wf {m : Memory} (hm : m.wf = true) (image : Image) : (m.writeImage image).wf = true := by
  unfold Memory.writeImage
  induction image generalizing m with
  | nil => exact hm
  | cons c image ih => exact ih (write_wf hm c.1.isLt c.2)

/-- Patching vectors keeps the form. -/
theorem writePatches_wf {m : Memory} (hm : m.wf = true) (patches : Patches) : (m.writePatches patches).wf = true := by
  unfold Memory.writePatches
  induction patches generalizing m with
  | nil => exact hm
  | cons p patches ih =>
    have hp := p.1.isLt
    refine ih (write_wf (write_wf hm ?_ _) ?_ _) <;> simp only [Config.memSize] <;> omega

/-- The load gives a canonical memory, if the previous run left one. -/
theorem loadMemory_wf (policy : MemInit) {previous : Memory} (h : previous.wf = true) (code data : Image)
    (patches : Patches) : (loadMemory policy previous code data patches).wf = true := by
  unfold loadMemory
  refine writePatches_wf (writeImage_wf (writeImage_wf ?_ _) _) _
  cases policy with
  | clean => rfl
  | random bytes => exact fill_wf nil_wf 0 bytes
  | unchanged => exact h

/-- Storing bytes from an address on keeps the form. -/
theorem storeBytes_wf {m : Memory} (hm : m.wf = true) (a : Word) (bs : List Byte) :
    (storeBytes m a bs).wf = true := by
  induction bs generalizing m a with
  | nil => exact hm
  | cons b bs ih =>
    unfold storeBytes
    apply ih
    split
    · rename_i h
      exact write_wf hm (by simpa [inRange] using h) b
    · exact hm

end Sys2Proof.Machine
end

