-- ==== Sys2Proof/Laws/State.lean ====
section
/-! SUPPORT. One lemma per field per update of the state, so that no later proof unfolds an update. -/

namespace Sys2Proof.Machine

/-! ### `State.setIp` -/

@[simp] theorem setIp_ax (s : State) (v : Word) : (s.setIp v).ax = s.ax := rfl
@[simp] theorem setIp_bx (s : State) (v : Word) : (s.setIp v).bx = s.bx := rfl
@[simp] theorem setIp_cx (s : State) (v : Word) : (s.setIp v).cx = s.cx := rfl
@[simp] theorem setIp_dx (s : State) (v : Word) : (s.setIp v).dx = s.dx := rfl
@[simp] theorem setIp_sp (s : State) (v : Word) : (s.setIp v).sp = s.sp := rfl
@[simp] theorem setIp_ip (s : State) (v : Word) : (s.setIp v).ip = v := rfl
@[simp] theorem setIp_flags (s : State) (v : Word) : (s.setIp v).flags = s.flags := rfl
@[simp] theorem setIp_internal (s : State) (v : Word) : (s.setIp v).internal = s.internal := rfl
@[simp] theorem setIp_mem (s : State) (v : Word) : (s.setIp v).mem = s.mem := rfl
@[simp] theorem setIp_pic (s : State) (v : Word) : (s.setIp v).pic = s.pic := rfl
@[simp] theorem setIp_pio (s : State) (v : Word) : (s.setIp v).pio = s.pio := rfl
@[simp] theorem setIp_timer (s : State) (v : Word) : (s.setIp v).timer = s.timer := rfl
@[simp] theorem setIp_hs (s : State) (v : Word) : (s.setIp v).hs = s.hs := rfl
@[simp] theorem setIp_switches (s : State) (v : Word) : (s.setIp v).switches = s.switches := rfl
@[simp] theorem setIp_status (s : State) (v : Word) : (s.setIp v).status = s.status := rfl
@[simp] theorem setIp_console (s : State) (v : Word) : (s.setIp v).console = s.console := rfl
@[simp] theorem setIp_breakpoints (s : State) (v : Word) : (s.setIp v).breakpoints = s.breakpoints := rfl
@[simp] theorem setIp_hostEvents (s : State) (v : Word) : (s.setIp v).hostEvents = s.hostEvents := rfl
@[simp] theorem setIp_keyboard (s : State) (v : Word) : (s.setIp v).keyboard = s.keyboard := rfl
@[simp] theorem setIp_params (s : State) (v : Word) : (s.setIp v).params = s.params := rfl
@[simp] theorem setIp_draws (s : State) (v : Word) : (s.setIp v).draws = s.draws := rfl

/-! ### `State.setFlags` -/

@[simp] theorem setFlags_ax (s : State) (f : Flags) : (s.setFlags f).ax = s.ax := rfl
@[simp] theorem setFlags_bx (s : State) (f : Flags) : (s.setFlags f).bx = s.bx := rfl
@[simp] theorem setFlags_cx (s : State) (f : Flags) : (s.setFlags f).cx = s.cx := rfl
@[simp] theorem setFlags_dx (s : State) (f : Flags) : (s.setFlags f).dx = s.dx := rfl
@[simp] theorem setFlags_sp (s : State) (f : Flags) : (s.setFlags f).sp = s.sp := rfl
@[simp] theorem setFlags_ip (s : State) (f : Flags) : (s.setFlags f).ip = s.ip := rfl
@[simp] theorem setFlags_flags (s : State) (f : Flags) : (s.setFlags f).flags = f := rfl
@[simp] theorem setFlags_internal (s : State) (f : Flags) : (s.setFlags f).internal = s.internal := rfl
@[simp] theorem setFlags_mem (s : State) (f : Flags) : (s.setFlags f).mem = s.mem := rfl
@[simp] theorem setFlags_pic (s : State) (f : Flags) : (s.setFlags f).pic = s.pic := rfl
@[simp] theorem setFlags_pio (s : State) (f : Flags) : (s.setFlags f).pio = s.pio := rfl
@[simp] theorem setFlags_timer (s : State) (f : Flags) : (s.setFlags f).timer = s.timer := rfl
@[simp] theorem setFlags_hs (s : State) (f : Flags) : (s.setFlags f).hs = s.hs := rfl
@[simp] theorem setFlags_switches (s : State) (f : Flags) : (s.setFlags f).switches = s.switches := rfl
@[simp] theorem setFlags_status (s : State) (f : Flags) : (s.setFlags f).status = s.status := rfl
@[simp] theorem setFlags_console (s : State) (f : Flags) : (s.setFlags f).console = s.console := rfl
@[simp] theorem setFlags_breakpoints (s : State) (f : Flags) : (s.setFlags f).breakpoints = s.breakpoints := rfl
@[simp] theorem setFlags_hostEvents (s : State) (f : Flags) : (s.setFlags f).hostEvents = s.hostEvents := rfl
@[simp] theorem setFlags_keyboard (s : State) (f : Flags) : (s.setFlags f).keyboard = s.keyboard := rfl
@[simp] theorem setFlags_params (s : State) (f : Flags) : (s.setFlags f).params = s.params := rfl
@[simp] theorem setFlags_draws (s : State) (f : Flags) : (s.setFlags f).draws = s.draws := rfl

/-! ### `State.setInterrupt` -/

@[simp] theorem setInterrupt_ax (s : State) (b : Bool) : (s.setInterrupt b).ax = s.ax := rfl
@[simp] theorem setInterrupt_bx (s : State) (b : Bool) : (s.setInterrupt b).bx = s.bx := rfl
@[simp] theorem setInterrupt_cx (s : State) (b : Bool) : (s.setInterrupt b).cx = s.cx := rfl
@[simp] theorem setInterrupt_dx (s : State) (b : Bool) : (s.setInterrupt b).dx = s.dx := rfl
@[simp] theorem setInterrupt_sp (s : State) (b : Bool) : (s.setInterrupt b).sp = s.sp := rfl
@[simp] theorem setInterrupt_ip (s : State) (b : Bool) : (s.setInterrupt b).ip = s.ip := rfl
@[simp] theorem setInterrupt_flags (s : State) (b : Bool) : (s.setInterrupt b).flags = { s.flags with interrupt := b } := rfl
@[simp] theorem setInterrupt_internal (s : State) (b : Bool) : (s.setInterrupt b).internal = s.internal := rfl
@[simp] theorem setInterrupt_mem (s : State) (b : Bool) : (s.setInterrupt b).mem = s.mem := rfl
@[simp] theorem setInterrupt_pic (s : State) (b : Bool) : (s.setInterrupt b).pic = s.pic := rfl
@[simp] theorem setInterrupt_pio (s : State) (b : Bool) : (s.setInterrupt b).pio = s.pio := rfl
@[simp] theorem setInterrupt_timer (s : State) (b : Bool) : (s.setInterrupt b).timer = s.timer := rfl
@[simp] theorem setInterrupt_hs (s : State) (b : Bool) : (s.setInterrupt b).hs = s.hs := rfl
@[simp] theorem setInterrupt_switches (s : State) (b : Bool) : (s.setInterrupt b).switches = s.switches := rfl
@[simp] theorem setInterrupt_status (s : State) (b : Bool) : (s.setInterrupt b).status = s.status := rfl
@[simp] theorem setInterrupt_console (s : State) (b : Bool) : (s.setInterrupt b).console = s.console := rfl
@[simp] theorem setInterrupt_breakpoints (s : State) (b : Bool) : (s.setInterrupt b).breakpoints = s.breakpoints := rfl
@[simp] theorem setInterrupt_hostEvents (s : State) (b : Bool) : (s.setInterrupt b).hostEvents = s.hostEvents := rfl
@[simp] theorem setInterrupt_keyboard (s : State) (b : Bool) : (s.setInterrupt b).keyboard = s.keyboard := rfl
@[simp] theorem setInterrupt_params (s : State) (b : Bool) : (s.setInterrupt b).params = s.params := rfl
@[simp] theorem setInterrupt_draws (s : State) (b : Bool) : (s.setInterrupt b).draws = s.draws := rfl

/-! ### `State.loadFlags` -/

@[simp] theorem loadFlags_ax (s : State) (w : Word) : (s.loadFlags w).ax = s.ax := rfl
@[simp] theorem loadFlags_bx (s : State) (w : Word) : (s.loadFlags w).bx = s.bx := rfl
@[simp] theorem loadFlags_cx (s : State) (w : Word) : (s.loadFlags w).cx = s.cx := rfl
@[simp] theorem loadFlags_dx (s : State) (w : Word) : (s.loadFlags w).dx = s.dx := rfl
@[simp] theorem loadFlags_sp (s : State) (w : Word) : (s.loadFlags w).sp = s.sp := rfl
@[simp] theorem loadFlags_ip (s : State) (w : Word) : (s.loadFlags w).ip = s.ip := rfl
@[simp] theorem loadFlags_flags (s : State) (w : Word) : (s.loadFlags w).flags = Flags.ofWord w := rfl
@[simp] theorem loadFlags_internal (s : State) (w : Word) : (s.loadFlags w).internal = s.internal := rfl
@[simp] theorem loadFlags_mem (s : State) (w : Word) : (s.loadFlags w).mem = s.mem := rfl
@[simp] theorem loadFlags_pic (s : State) (w : Word) : (s.loadFlags w).pic = s.pic := rfl
@[simp] theorem loadFlags_pio (s : State) (w : Word) : (s.loadFlags w).pio = s.pio := rfl
@[simp] theorem loadFlags_timer (s : State) (w : Word) : (s.loadFlags w).timer = s.timer := rfl
@[simp] theorem loadFlags_hs (s : State) (w : Word) : (s.loadFlags w).hs = s.hs := rfl
@[simp] theorem loadFlags_switches (s : State) (w : Word) : (s.loadFlags w).switches = s.switches := rfl
@[simp] theorem loadFlags_status (s : State) (w : Word) : (s.loadFlags w).status = s.status := rfl
@[simp] theorem loadFlags_console (s : State) (w : Word) : (s.loadFlags w).console = s.console := rfl
@[simp] theorem loadFlags_breakpoints (s : State) (w : Word) : (s.loadFlags w).breakpoints = s.breakpoints := rfl
@[simp] theorem loadFlags_hostEvents (s : State) (w : Word) : (s.loadFlags w).hostEvents = s.hostEvents := rfl
@[simp] theorem loadFlags_keyboard (s : State) (w : Word) : (s.loadFlags w).keyboard = s.keyboard := rfl
@[simp] theorem loadFlags_params (s : State) (w : Word) : (s.loadFlags w).params = s.params := rfl
@[simp] theorem loadFlags_draws (s : State) (w : Word) : (s.loadFlags w).draws = s.draws := rfl

/-! ### `State.consoleOut` -/

@[simp] theorem consoleOut_ax (s : State) (b : Byte) : (s.consoleOut b).ax = s.ax := rfl
@[simp] theorem consoleOut_bx (s : State) (b : Byte) : (s.consoleOut b).bx = s.bx := rfl
@[simp] theorem consoleOut_cx (s : State) (b : Byte) : (s.consoleOut b).cx = s.cx := rfl
@[simp] theorem consoleOut_dx (s : State) (b : Byte) : (s.consoleOut b).dx = s.dx := rfl
@[simp] theorem consoleOut_sp (s : State) (b : Byte) : (s.consoleOut b).sp = s.sp := rfl
@[simp] theorem consoleOut_ip (s : State) (b : Byte) : (s.consoleOut b).ip = s.ip := rfl
@[simp] theorem consoleOut_flags (s : State) (b : Byte) : (s.consoleOut b).flags = s.flags := rfl
@[simp] theorem consoleOut_internal (s : State) (b : Byte) : (s.consoleOut b).internal = s.internal := rfl
@[simp] theorem consoleOut_mem (s : State) (b : Byte) : (s.consoleOut b).mem = s.mem := rfl
@[simp] theorem consoleOut_pic (s : State) (b : Byte) : (s.consoleOut b).pic = s.pic := rfl
@[simp] theorem consoleOut_pio (s : State) (b : Byte) : (s.consoleOut b).pio = s.pio := rfl
@[simp] theorem consoleOut_timer (s : State) (b : Byte) : (s.consoleOut b).timer = s.timer := rfl
@[simp] theorem consoleOut_hs (s : State) (b : Byte) : (s.consoleOut b).hs = s.hs := rfl
@[simp] theorem consoleOut_switches (s : State) (b : Byte) : (s.consoleOut b).switches = s.switches := rfl
@[simp] theorem consoleOut_status (s : State) (b : Byte) : (s.consoleOut b).status = s.status := rfl
@[simp] theorem consoleOut_console (s : State) (b : Byte) : (s.consoleOut b).console = s.console ++ [b] := rfl
@[simp] theorem consoleOut_breakpoints (s : State) (b : Byte) : (s.consoleOut b).breakpoints = s.breakpoints := rfl
@[simp] theorem consoleOut_hostEvents (s : State) (b : Byte) : (s.consoleOut b).hostEvents = s.hostEvents := rfl
@[simp] theorem consoleOut_keyboard (s : State) (b : Byte) : (s.consoleOut b).keyboard = s.keyboard := rfl
@[simp] theorem consoleOut_params (s : State) (b : Byte) : (s.consoleOut b).params = s.params := rfl
@[simp] theorem consoleOut_draws (s : State) (b : Byte) : (s.consoleOut b).draws = s.draws := rfl

/-! ### `State.breakpoint` -/

@[simp] theorem breakpoint_ax (s : State) : (s.breakpoint).ax = s.ax := rfl
@[simp] theorem breakpoint_bx (s : State) : (s.breakpoint).bx = s.bx := rfl
@[simp] theorem breakpoint_cx (s : State) : (s.breakpoint).cx = s.cx := rfl
@[simp] theorem breakpoint_dx (s : State) : (s.breakpoint).dx = s.dx := rfl
@[simp] theorem breakpoint_sp (s : State) : (s.breakpoint).sp = s.sp := rfl
@[simp] theorem breakpoint_ip (s : State) : (s.breakpoint).ip = s.ip := rfl
@[simp] theorem breakpoint_flags (s : State) : (s.breakpoint).flags = s.flags := rfl
@[simp] theorem breakpoint_internal (s : State) : (s.breakpoint).internal = s.internal := rfl
@[simp] theorem breakpoint_mem (s : State) : (s.breakpoint).mem = s.mem := rfl
@[simp] theorem breakpoint_pic (s : State) : (s.breakpoint).pic = s.pic := rfl
@[simp] theorem breakpoint_pio (s : State) : (s.breakpoint).pio = s.pio := rfl
@[simp] theorem breakpoint_timer (s : State) : (s.breakpoint).timer = s.timer := rfl
@[simp] theorem breakpoint_hs (s : State) : (s.breakpoint).hs = s.hs := rfl
@[simp] theorem breakpoint_switches (s : State) : (s.breakpoint).switches = s.switches := rfl
@[simp] theorem breakpoint_status (s : State) : (s.breakpoint).status = s.status := rfl
@[simp] theorem breakpoint_console (s : State) : (s.breakpoint).console = s.console := rfl
@[simp] theorem breakpoint_breakpoints (s : State) : (s.breakpoint).breakpoints = s.breakpoints + 1 := rfl
@[simp] theorem breakpoint_hostEvents (s : State) : (s.breakpoint).hostEvents = s.hostEvents := rfl
@[simp] theorem breakpoint_keyboard (s : State) : (s.breakpoint).keyboard = s.keyboard := rfl
@[simp] theorem breakpoint_params (s : State) : (s.breakpoint).params = s.params := rfl
@[simp] theorem breakpoint_draws (s : State) : (s.breakpoint).draws = s.draws := rfl

/-! ### `State.stop` -/

@[simp] theorem stop_ax (s : State) : (s.stop).ax = s.ax := rfl
@[simp] theorem stop_bx (s : State) : (s.stop).bx = s.bx := rfl
@[simp] theorem stop_cx (s : State) : (s.stop).cx = s.cx := rfl
@[simp] theorem stop_dx (s : State) : (s.stop).dx = s.dx := rfl
@[simp] theorem stop_sp (s : State) : (s.stop).sp = s.sp := rfl
@[simp] theorem stop_ip (s : State) : (s.stop).ip = s.ip := rfl
@[simp] theorem stop_flags (s : State) : (s.stop).flags = s.flags := rfl
@[simp] theorem stop_internal (s : State) : (s.stop).internal = s.internal := rfl
@[simp] theorem stop_mem (s : State) : (s.stop).mem = s.mem := rfl
@[simp] theorem stop_pic (s : State) : (s.stop).pic = s.pic := rfl
@[simp] theorem stop_pio (s : State) : (s.stop).pio = s.pio := rfl
@[simp] theorem stop_timer (s : State) : (s.stop).timer = s.timer := rfl
@[simp] theorem stop_hs (s : State) : (s.stop).hs = s.hs := rfl
@[simp] theorem stop_switches (s : State) : (s.stop).switches = s.switches := rfl
@[simp] theorem stop_status (s : State) : (s.stop).status = .halted := rfl
@[simp] theorem stop_console (s : State) : (s.stop).console = s.console := rfl
@[simp] theorem stop_breakpoints (s : State) : (s.stop).breakpoints = s.breakpoints := rfl
@[simp] theorem stop_hostEvents (s : State) : (s.stop).hostEvents = s.hostEvents := rfl
@[simp] theorem stop_keyboard (s : State) : (s.stop).keyboard = s.keyboard := rfl
@[simp] theorem stop_params (s : State) : (s.stop).params = s.params := rfl
@[simp] theorem stop_draws (s : State) : (s.stop).draws = s.draws := rfl

/-! ### `State.request` -/

@[simp] theorem request_ax (s : State) (n : Fin 8) : (s.request n).ax = s.ax := rfl
@[simp] theorem request_bx (s : State) (n : Fin 8) : (s.request n).bx = s.bx := rfl
@[simp] theorem request_cx (s : State) (n : Fin 8) : (s.request n).cx = s.cx := rfl
@[simp] theorem request_dx (s : State) (n : Fin 8) : (s.request n).dx = s.dx := rfl
@[simp] theorem request_sp (s : State) (n : Fin 8) : (s.request n).sp = s.sp := rfl
@[simp] theorem request_ip (s : State) (n : Fin 8) : (s.request n).ip = s.ip := rfl
@[simp] theorem request_flags (s : State) (n : Fin 8) : (s.request n).flags = s.flags := rfl
@[simp] theorem request_internal (s : State) (n : Fin 8) : (s.request n).internal = s.internal := rfl
@[simp] theorem request_mem (s : State) (n : Fin 8) : (s.request n).mem = s.mem := rfl
@[simp] theorem request_pic (s : State) (n : Fin 8) : (s.request n).pic = { s.pic with irr := setBit s.pic.irr n } := rfl
@[simp] theorem request_pio (s : State) (n : Fin 8) : (s.request n).pio = s.pio := rfl
@[simp] theorem request_timer (s : State) (n : Fin 8) : (s.request n).timer = s.timer := rfl
@[simp] theorem request_hs (s : State) (n : Fin 8) : (s.request n).hs = s.hs := rfl
@[simp] theorem request_switches (s : State) (n : Fin 8) : (s.request n).switches = s.switches := rfl
@[simp] theorem request_status (s : State) (n : Fin 8) : (s.request n).status = s.status := rfl
@[simp] theorem request_console (s : State) (n : Fin 8) : (s.request n).console = s.console := rfl
@[simp] theorem request_breakpoints (s : State) (n : Fin 8) : (s.request n).breakpoints = s.breakpoints := rfl
@[simp] theorem request_hostEvents (s : State) (n : Fin 8) : (s.request n).hostEvents = s.hostEvents := rfl
@[simp] theorem request_keyboard (s : State) (n : Fin 8) : (s.request n).keyboard = s.keyboard := rfl
@[simp] theorem request_params (s : State) (n : Fin 8) : (s.request n).params = s.params := rfl
@[simp] theorem request_draws (s : State) (n : Fin 8) : (s.request n).draws = s.draws := rfl

/-! ### `State.cancel` -/

@[simp] theorem cancel_ax (s : State) (n : Fin 8) : (s.cancel n).ax = s.ax := rfl
@[simp] theorem cancel_bx (s : State) (n : Fin 8) : (s.cancel n).bx = s.bx := rfl
@[simp] theorem cancel_cx (s : State) (n : Fin 8) : (s.cancel n).cx = s.cx := rfl
@[simp] theorem cancel_dx (s : State) (n : Fin 8) : (s.cancel n).dx = s.dx := rfl
@[simp] theorem cancel_sp (s : State) (n : Fin 8) : (s.cancel n).sp = s.sp := rfl
@[simp] theorem cancel_ip (s : State) (n : Fin 8) : (s.cancel n).ip = s.ip := rfl
@[simp] theorem cancel_flags (s : State) (n : Fin 8) : (s.cancel n).flags = s.flags := rfl
@[simp] theorem cancel_internal (s : State) (n : Fin 8) : (s.cancel n).internal = s.internal := rfl
@[simp] theorem cancel_mem (s : State) (n : Fin 8) : (s.cancel n).mem = s.mem := rfl
@[simp] theorem cancel_pic (s : State) (n : Fin 8) : (s.cancel n).pic = { s.pic with irr := clearBit s.pic.irr n } := rfl
@[simp] theorem cancel_pio (s : State) (n : Fin 8) : (s.cancel n).pio = s.pio := rfl
@[simp] theorem cancel_timer (s : State) (n : Fin 8) : (s.cancel n).timer = s.timer := rfl
@[simp] theorem cancel_hs (s : State) (n : Fin 8) : (s.cancel n).hs = s.hs := rfl
@[simp] theorem cancel_switches (s : State) (n : Fin 8) : (s.cancel n).switches = s.switches := rfl
@[simp] theorem cancel_status (s : State) (n : Fin 8) : (s.cancel n).status = s.status := rfl
@[simp] theorem cancel_console (s : State) (n : Fin 8) : (s.cancel n).console = s.console := rfl
@[simp] theorem cancel_breakpoints (s : State) (n : Fin 8) : (s.cancel n).breakpoints = s.breakpoints := rfl
@[simp] theorem cancel_hostEvents (s : State) (n : Fin 8) : (s.cancel n).hostEvents = s.hostEvents := rfl
@[simp] theorem cancel_keyboard (s : State) (n : Fin 8) : (s.cancel n).keyboard = s.keyboard := rfl
@[simp] theorem cancel_params (s : State) (n : Fin 8) : (s.cancel n).params = s.params := rfl
@[simp] theorem cancel_draws (s : State) (n : Fin 8) : (s.cancel n).draws = s.draws := rfl

/-! ### `State.pioDriveA` -/

@[simp] theorem pioDriveA_ax (s : State) (x : Byte) : (s.pioDriveA x).ax = s.ax := rfl
@[simp] theorem pioDriveA_bx (s : State) (x : Byte) : (s.pioDriveA x).bx = s.bx := rfl
@[simp] theorem pioDriveA_cx (s : State) (x : Byte) : (s.pioDriveA x).cx = s.cx := rfl
@[simp] theorem pioDriveA_dx (s : State) (x : Byte) : (s.pioDriveA x).dx = s.dx := rfl
@[simp] theorem pioDriveA_sp (s : State) (x : Byte) : (s.pioDriveA x).sp = s.sp := rfl
@[simp] theorem pioDriveA_ip (s : State) (x : Byte) : (s.pioDriveA x).ip = s.ip := rfl
@[simp] theorem pioDriveA_flags (s : State) (x : Byte) : (s.pioDriveA x).flags = s.flags := rfl
@[simp] theorem pioDriveA_internal (s : State) (x : Byte) : (s.pioDriveA x).internal = s.internal := rfl
@[simp] theorem pioDriveA_mem (s : State) (x : Byte) : (s.pioDriveA x).mem = s.mem := rfl
@[simp] theorem pioDriveA_pic (s : State) (x : Byte) : (s.pioDriveA x).pic = s.pic := rfl
@[simp] theorem pioDriveA_pio (s : State) (x : Byte) : (s.pioDriveA x).pio = { s.pio with pa := (s.pio.pa &&& s.pio.ca) ||| (x &&& ~~~ s.pio.ca) } := rfl
@[simp] theorem pioDriveA_timer (s : State) (x : Byte) : (s.pioDriveA x).timer = s.timer := rfl
@[simp] theorem pioDriveA_hs (s : State) (x : Byte) : (s.pioDriveA x).hs = s.hs := rfl
@[simp] theorem pioDriveA_switches (s : State) (x : Byte) : (s.pioDriveA x).switches = s.switches := rfl
@[simp] theorem pioDriveA_status (s : State) (x : Byte) : (s.pioDriveA x).status = s.status := rfl
@[simp] theorem pioDriveA_console (s : State) (x : Byte) : (s.pioDriveA x).console = s.console := rfl
@[simp] theorem pioDriveA_breakpoints (s : State) (x : Byte) : (s.pioDriveA x).breakpoints = s.breakpoints := rfl
@[simp] theorem pioDriveA_hostEvents (s : State) (x : Byte) : (s.pioDriveA x).hostEvents = s.hostEvents := rfl
@[simp] theorem pioDriveA_keyboard (s : State) (x : Byte) : (s.pioDriveA x).keyboard = s.keyboard := rfl
@[simp] theorem pioDriveA_params (s : State) (x : Byte) : (s.pioDriveA x).params = s.params := rfl
@[simp] theorem pioDriveA_draws (s : State) (x : Byte) : (s.pioDriveA x).draws = s.draws := rfl

/-! ### `State.pioDriveB` -/

@[simp] theorem pioDriveB_ax (s : State) (x : Byte) : (s.pioDriveB x).ax = s.ax := rfl
@[simp] theorem pioDriveB_bx (s : State) (x : Byte) : (s.pioDriveB x).bx = s.bx := rfl
@[simp] theorem pioDriveB_cx (s : State) (x : Byte) : (s.pioDriveB x).cx = s.cx := rfl
@[simp] theorem pioDriveB_dx (s : State) (x : Byte) : (s.pioDriveB x).dx = s.dx := rfl
@[simp] theorem pioDriveB_sp (s : State) (x : Byte) : (s.pioDriveB x).sp = s.sp := rfl
@[simp] theorem pioDriveB_ip (s : State) (x : Byte) : (s.pioDriveB x).ip = s.ip := rfl
@[simp] theorem pioDriveB_flags (s : State) (x : Byte) : (s.pioDriveB x).flags = s.flags := rfl
@[simp] theorem pioDriveB_internal (s : State) (x : Byte) : (s.pioDriveB x).internal = s.internal := rfl
@[simp] theorem pioDriveB_mem (s : State) (x : Byte) : (s.pioDriveB x).mem = s.mem := rfl
@[simp] theorem pioDriveB_pic (s : State) (x : Byte) : (s.pioDriveB x).pic = s.pic := rfl
@[simp] theorem pioDriveB_pio (s : State) (x : Byte) : (s.pioDriveB x).pio = { s.pio with pb := (s.pio.pb &&& s.pio.cb) ||| (x &&& ~~~ s.pio.cb) } := rfl
@[simp] theorem pioDriveB_timer (s : State) (x : Byte) : (s.pioDriveB x).timer = s.timer := rfl
@[simp] theorem pioDriveB_hs (s : State) (x : Byte) : (s.pioDriveB x).hs = s.hs := rfl
@[simp] theorem pioDriveB_switches (s : State) (x : Byte) : (s.pioDriveB x).switches = s.switches := rfl
@[simp] theorem pioDriveB_status (s : State) (x : Byte) : (s.pioDriveB x).status = s.status := rfl
@[simp] theorem pioDriveB_console (s : State) (x : Byte) : (s.pioDriveB x).console = s.console := rfl
@[simp] theorem pioDriveB_breakpoints (s : State) (x : Byte) : (s.pioDriveB x).breakpoints = s.breakpoints := rfl
@[simp] theorem pioDriveB_hostEvents (s : State) (x : Byte) : (s.pioDriveB x).hostEvents = s.hostEvents := rfl
@[simp] theorem pioDriveB_keyboard (s : State) (x : Byte) : (s.pioDriveB x).keyboard = s.keyboard := rfl
@[simp] theorem pioDriveB_params (s : State) (x : Byte) : (s.pioDriveB x).params = s.params := rfl
@[simp] theorem pioDriveB_draws (s : State) (x : Byte) : (s.pioDriveB x).draws = s.draws := rfl

/-! ### `State.drawInternal` -/

@[simp] theorem drawInternal_ax (s : State) : (s.drawInternal).ax = s.ax := rfl
@[simp] theorem drawInternal_bx (s : State) : (s.drawInternal).bx = s.bx := rfl
@[simp] theorem drawInternal_cx (s : State) : (s.drawInternal).cx = s.cx := rfl
@[simp] theorem drawInternal_dx (s : State) : (s.drawInternal).dx = s.dx := rfl
@[simp] theorem drawInternal_sp (s : State) : (s.drawInternal).sp = s.sp := rfl
@[simp] theorem drawInternal_ip (s : State) : (s.drawInternal).ip = s.ip := rfl
@[simp] theorem drawInternal_flags (s : State) : (s.drawInternal).flags = s.flags := rfl
@[simp] theorem drawInternal_mem (s : State) : (s.drawInternal).mem = s.mem := rfl
@[simp] theorem drawInternal_pic (s : State) : (s.drawInternal).pic = s.pic := rfl
@[simp] theorem drawInternal_pio (s : State) : (s.drawInternal).pio = s.pio := rfl
@[simp] theorem drawInternal_timer (s : State) : (s.drawInternal).timer = s.timer := rfl
@[simp] theorem drawInternal_hs (s : State) : (s.drawInternal).hs = s.hs := rfl
@[simp] theorem drawInternal_switches (s : State) : (s.drawInternal).switches = s.switches := rfl
@[simp] theorem drawInternal_status (s : State) : (s.drawInternal).status = s.status := rfl
@[simp] theorem drawInternal_console (s : State) : (s.drawInternal).console = s.console := rfl
@[simp] theorem drawInternal_breakpoints (s : State) : (s.drawInternal).breakpoints = s.breakpoints := rfl
@[simp] theorem drawInternal_hostEvents (s : State) : (s.drawInternal).hostEvents = s.hostEvents := rfl
@[simp] theorem drawInternal_keyboard (s : State) : (s.drawInternal).keyboard = s.keyboard := rfl
@[simp] theorem drawInternal_params (s : State) : (s.drawInternal).params = s.params := rfl
@[simp] theorem drawInternal_draws (s : State) : (s.drawInternal).draws = s.draws + 8 := rfl

/-! ### `State.setReg16` -/

@[simp] theorem setReg16_ip (s : State) (r : Reg16) (v : Word) : (s.setReg16 r v).ip = s.ip := by cases r <;> rfl
@[simp] theorem setReg16_flags (s : State) (r : Reg16) (v : Word) : (s.setReg16 r v).flags = s.flags := by cases r <;> rfl
@[simp] theorem setReg16_internal (s : State) (r : Reg16) (v : Word) : (s.setReg16 r v).internal = s.internal := by cases r <;> rfl
@[simp] theorem setReg16_mem (s : State) (r : Reg16) (v : Word) : (s.setReg16 r v).mem = s.mem := by cases r <;> rfl
@[simp] theorem setReg16_pic (s : State) (r : Reg16) (v : Word) : (s.setReg16 r v).pic = s.pic := by cases r <;> rfl
@[simp] theorem setReg16_pio (s : State) (r : Reg16) (v : Word) : (s.setReg16 r v).pio = s.pio := by cases r <;> rfl
@[simp] theorem setReg16_timer (s : State) (r : Reg16) (v : Word) : (s.setReg16 r v).timer = s.timer := by cases r <;> rfl
@[simp] theorem setReg16_hs (s : State) (r : Reg16) (v : Word) : (s.setReg16 r v).hs = s.hs := by cases r <;> rfl
@[simp] theorem setReg16_switches (s : State) (r : Reg16) (v : Word) : (s.setReg16 r v).switches = s.switches := by cases r <;> rfl
@[simp] theorem setReg16_status (s : State) (r : Reg16) (v : Word) : (s.setReg16 r v).status = s.status := by cases r <;> rfl
@[simp] theorem setReg16_console (s : State) (r : Reg16) (v : Word) : (s.setReg16 r v).console = s.console := by cases r <;> rfl
@[simp] theorem setReg16_breakpoints (s : State) (r : Reg16) (v : Word) : (s.setReg16 r v).breakpoints = s.breakpoints := by cases r <;> rfl
@[simp] theorem setReg16_hostEvents (s : State) (r : Reg16) (v : Word) : (s.setReg16 r v).hostEvents = s.hostEvents := by cases r <;> rfl
@[simp] theorem setReg16_keyboard (s : State) (r : Reg16) (v : Word) : (s.setReg16 r v).keyboard = s.keyboard := by cases r <;> rfl
@[simp] theorem setReg16_params (s : State) (r : Reg16) (v : Word) : (s.setReg16 r v).params = s.params := by cases r <;> rfl
@[simp] theorem setReg16_draws (s : State) (r : Reg16) (v : Word) : (s.setReg16 r v).draws = s.draws := by cases r <;> rfl

/-! ### `State.setReg8` -/

@[simp] theorem setReg8_sp (s : State) (r : Reg8) (v : Byte) : (s.setReg8 r v).sp = s.sp := by cases r <;> rfl
@[simp] theorem setReg8_ip (s : State) (r : Reg8) (v : Byte) : (s.setReg8 r v).ip = s.ip := by cases r <;> rfl
@[simp] theorem setReg8_flags (s : State) (r : Reg8) (v : Byte) : (s.setReg8 r v).flags = s.flags := by cases r <;> rfl
@[simp] theorem setReg8_internal (s : State) (r : Reg8) (v : Byte) : (s.setReg8 r v).internal = s.internal := by cases r <;> rfl
@[simp] theorem setReg8_mem (s : State) (r : Reg8) (v : Byte) : (s.setReg8 r v).mem = s.mem := by cases r <;> rfl
@[simp] theorem setReg8_pic (s : State) (r : Reg8) (v : Byte) : (s.setReg8 r v).pic = s.pic := by cases r <;> rfl
@[simp] theorem setReg8_pio (s : State) (r : Reg8) (v : Byte) : (s.setReg8 r v).pio = s.pio := by cases r <;> rfl
@[simp] theorem setReg8_timer (s : State) (r : Reg8) (v : Byte) : (s.setReg8 r v).timer = s.timer := by cases r <;> rfl
@[simp] theorem setReg8_hs (s : State) (r : Reg8) (v : Byte) : (s.setReg8 r v).hs = s.hs := by cases r <;> rfl
@[simp] theorem setReg8_switches (s : State) (r : Reg8) (v : Byte) : (s.setReg8 r v).switches = s.switches := by cases r <;> rfl
@[simp] theorem setReg8_status (s : State) (r : Reg8) (v : Byte) : (s.setReg8 r v).status = s.status := by cases r <;> rfl
@[simp] theorem setReg8_console (s : State) (r : Reg8) (v : Byte) : (s.setReg8 r v).console = s.console := by cases r <;> rfl
@[simp] theorem setReg8_breakpoints (s : State) (r : Reg8) (v : Byte) : (s.setReg8 r v).breakpoints = s.breakpoints := by cases r <;> rfl
@[simp] theorem setReg8_hostEvents (s : State) (r : Reg8) (v : Byte) : (s.setReg8 r v).hostEvents = s.hostEvents := by cases r <;> rfl
@[simp] theorem setReg8_keyboard (s : State) (r : Reg8) (v : Byte) : (s.setReg8 r v).keyboard = s.keyboard := by cases r <;> rfl
@[simp] theorem setReg8_params (s : State) (r : Reg8) (v : Byte) : (s.setReg8 r v).params = s.params := by cases r <;> rfl
@[simp] theorem setReg8_draws (s : State) (r : Reg8) (v : Byte) : (s.setReg8 r v).draws = s.draws := by cases r <;> rfl

/-! ### Registers read after a write -/

@[simp] theorem reg16_setReg16 (s : State) (r q : Reg16) (v : Word) :
    (s.setReg16 r v).reg16 q = if q = r then v else s.reg16 q := by cases r <;> cases q <;> rfl

@[simp] theorem loByte_toNat (w : Word) : (loByte w).toNat = w.toNat % 256 := by
  simp [loByte, BitVec.extractLsb'_toNat]

@[simp] theorem hiByte_toNat (w : Word) : (hiByte w).toNat = w.toNat / 256 := by
  have := w.isLt
  simp [hiByte, BitVec.extractLsb'_toNat, Nat.shiftRight_eq_div_pow]; omega

@[simp] theorem joinBytes_toNat (lo hi : Byte) : (joinBytes lo hi).toNat = lo.toNat + 256 * hi.toNat := by
  have := lo.isLt
  rw [joinBytes, BitVec.toNat_append, ← Nat.shiftLeft_add_eq_or_of_lt (by omega), Nat.shiftLeft_eq]; omega

@[simp] theorem loByte_joinBytes (lo hi : Byte) : loByte (joinBytes lo hi) = lo := by
  have := lo.isLt
  apply BitVec.eq_of_toNat_eq; rw [loByte_toNat, joinBytes_toNat]; omega

@[simp] theorem hiByte_joinBytes (lo hi : Byte) : hiByte (joinBytes lo hi) = hi := by
  have := lo.isLt
  apply BitVec.eq_of_toNat_eq; rw [hiByte_toNat, joinBytes_toNat]; omega

@[simp] theorem joinBytes_loByte_hiByte (w : Word) : joinBytes (loByte w) (hiByte w) = w := by
  apply BitVec.eq_of_toNat_eq; rw [joinBytes_toNat, loByte_toNat, hiByte_toNat]; omega

@[simp] theorem reg8_setReg8 (s : State) (r q : Reg8) (v : Byte) :
    (s.setReg8 r v).reg8 q = if q = r then v else s.reg8 q := by
  cases r <;> cases q <;> simp [State.setReg8, State.reg8]

@[simp] theorem reg16_setIp (s : State) (v : Word) (r : Reg16) : (s.setIp v).reg16 r = s.reg16 r := by cases r <;> rfl
@[simp] theorem reg8_setIp (s : State) (v : Word) (r : Reg8) : (s.setIp v).reg8 r = s.reg8 r := by cases r <;> rfl
@[simp] theorem reg16_setFlags (s : State) (f : Flags) (r : Reg16) : (s.setFlags f).reg16 r = s.reg16 r := by
  cases r <;> rfl
@[simp] theorem reg8_setFlags (s : State) (f : Flags) (r : Reg8) : (s.setFlags f).reg8 r = s.reg8 r := by
  cases r <;> rfl

end Sys2Proof.Machine
end

