-- ==== Sys2Proof/Laws/Ops.lean ====
section
/-! SUPPORT. For each shared operation, once, everything it can do: when it answers a next state and which one, and when
it faults.  Later proofs cite these and do not unfold the operations. -/

namespace Sys2Proof.Machine

/-! ### Sequencing -/

@[simp] theorem andThen_next {α β : Type} (a : α) (k : α → Result β) : andThen (.next a) k = k a := rfl
@[simp] theorem andThen_fault {α β : Type} (r : Fault) (k : α → Result β) : andThen (.fault r) k = .fault r := rfl
@[simp] theorem andThen_refused {α β : Type} (r : Refusal) (k : α → Result β) :
    andThen (.refused r) k = .refused r := rfl

/-- A sequence answers a next value exactly when both parts do. -/
theorem andThen_eq_next {α β : Type} {o : Result α} {k : α → Result β} {b : β} :
    andThen o k = .next b ↔ ∃ a, o = .next a ∧ k a = .next b := by
  cases o <;> simp

/-! ### Memory -/

theorem inRange_iff (a : Word) : inRange a = true ↔ ByteIn a := by
  simp only [inRange, decide_eq_true_eq, ByteIn]
  simp only [Config.memSize]; omega

theorem inRange_two_iff (a : Word) : (inRange a && inRange (a + 1#16)) = true ↔ WordIn a := by
  have := a.isLt
  simp only [inRange, Bool.and_eq_true, decide_eq_true_eq, WordIn, BitVec.toNat_add]
  simp only [Config.memSize, BitVec.toNat_ofNat]; omega

/-- The address after a word's first byte does not wrap. -/
theorem toNat_succ {a : Word} (h : WordIn a) : (a + 1#16).toNat = a.toNat + 1 := by
  simp [BitVec.toNat_add]; omega

/-- A memory word is a 16-bit number. -/
theorem wordNatAt_lt (s : State) (a : Word) : s.wordNatAt a < 65536 := by
  have h0 := (s.mem.read a.toNat).isLt
  have h1 := (s.mem.read (a.toNat + 1)).isLt
  unfold State.wordNatAt; omega

@[simp] theorem wordAt_toNat (s : State) (a : Word) : (s.wordAt a).toNat = s.wordNatAt a := by
  simp [State.wordAt, Nat.mod_eq_of_lt (wordNatAt_lt s a)]

/-- The two bytes joined are the word. -/
theorem joinBytes_read (s : State) (a : Word) :
    joinBytes (s.mem.read a.toNat) (s.mem.read (a.toNat + 1)) = s.wordAt a := by
  apply BitVec.eq_of_toNat_eq; simp [State.wordNatAt]

theorem memRead8_of_in {s : State} {a : Word} (h : ByteIn a) : s.memRead8 a = .next (s.byteAt a) := by
  simp [State.memRead8, (inRange_iff a).2 h, State.byteAt]

theorem memRead8_of_out {s : State} {a : Word} (h : ¬ ByteIn a) :
    s.memRead8 a = .fault (.memoryOutOfRange s.console) := by
  rw [← inRange_iff] at h
  simp [State.memRead8, h]

theorem memRead16_of_in {s : State} {a : Word} (h : WordIn a) : s.memRead16 a = .next (s.wordAt a) := by
  simp only [State.memRead16, (inRange_two_iff a).2 h, if_true, toNat_succ h, joinBytes_read]

theorem memRead16_of_out {s : State} {a : Word} (h : ¬ WordIn a) :
    s.memRead16 a = .fault (.memoryOutOfRange s.console) := by
  rw [← inRange_two_iff] at h
  simp only [State.memRead16, h]; rfl

theorem memWrite8_of_in {s : State} {a : Word} (h : ByteIn a) (v : Byte) :
    s.memWrite8 a v = .next { s with mem := s.mem.write a.toNat v } := by
  simp [State.memWrite8, (inRange_iff a).2 h]

theorem memWrite8_of_out {s : State} {a : Word} (h : ¬ ByteIn a) (v : Byte) :
    s.memWrite8 a v = .fault (.memoryOutOfRange s.console) := by
  rw [← inRange_iff] at h
  simp [State.memWrite8, h]

/-- Memory after a word write. -/
def Memory.writeWord (m : Memory) (a : Nat) (v : Word) : Memory := (m.write a (loByte v)).write (a + 1) (hiByte v)

theorem memWrite16_of_in {s : State} {a : Word} (h : WordIn a) (v : Word) :
    s.memWrite16 a v = .next { s with mem := s.mem.writeWord a.toNat v } := by
  simp only [State.memWrite16, (inRange_two_iff a).2 h, if_true, toNat_succ h, Memory.writeWord]

theorem memWrite16_of_out {s : State} {a : Word} (h : ¬ WordIn a) (v : Word) :
    s.memWrite16 a v = .fault (.memoryOutOfRange s.console) := by
  rw [← inRange_two_iff] at h
  simp only [State.memWrite16, h]; rfl

/-- What a one-byte read does. -/
theorem memRead8_eq_next {s : State} {a : Word} {v : Byte} :
    s.memRead8 a = .next v ↔ ByteIn a ∧ v = s.byteAt a := by
  by_cases h : ByteIn a
  · simp [memRead8_of_in h, h, eq_comm]
  · simp [memRead8_of_out h, h]

/-- What a word read does. -/
theorem memRead16_eq_next {s : State} {a v : Word} : s.memRead16 a = .next v ↔ WordIn a ∧ v = s.wordAt a := by
  by_cases h : WordIn a
  · simp [memRead16_of_in h, h, eq_comm]
  · simp [memRead16_of_out h, h]

/-- What a one-byte write does. -/
theorem memWrite8_eq_next {s t : State} {a : Word} {v : Byte} :
    s.memWrite8 a v = .next t ↔ ByteIn a ∧ t = { s with mem := s.mem.write a.toNat v } := by
  by_cases h : ByteIn a
  · simp [memWrite8_of_in h, h, eq_comm]
  · simp [memWrite8_of_out h, h]

/-- What a word write does. -/
theorem memWrite16_eq_next {s t : State} {a v : Word} :
    s.memWrite16 a v = .next t ↔ WordIn a ∧ t = { s with mem := s.mem.writeWord a.toNat v } := by
  by_cases h : WordIn a
  · simp [memWrite16_of_in h, h, eq_comm]
  · simp [memWrite16_of_out h, h]

/-- A word write keeps the canonical form. -/
theorem writeWord_wf {m : Memory} (hm : m.wf = true) {a : Nat} (ha : a + 1 < Config.memSize) (v : Word) :
    (m.writeWord a v).wf = true := write_wf (write_wf hm (by omega) _) ha _

/-- A byte read after a word write. -/
theorem read_writeWord {m : Memory} (hm : m.wf = true) {a : Nat} (ha : a + 1 < Config.memSize) (v : Word) (b : Nat) :
    (m.writeWord a v).read b = if b = a + 1 then hiByte v else if b = a then loByte v else m.read b := by
  rw [Memory.writeWord, read_write (write_wf hm (by omega) _), read_write hm]

/-- The word read back after a word write. -/
theorem wordNatAt_writeWord {s : State} (hm : s.mem.wf = true) {a : Word} (ha : WordIn a) (v : Word) :
    State.wordNatAt { s with mem := s.mem.writeWord a.toNat v } a = v.toNat := by
  have hlt : a.toNat + 1 < Config.memSize := by simp only [Config.memSize]; omega
  have := v.isLt
  simp [State.wordNatAt, read_writeWord hm hlt]; omega

/-! ### The stack -/

theorem push16_of_can {s : State} (h : CanPush s) (v : Word) :
    s.push16 v = .next { s with sp := s.sp - 2#16, mem := s.mem.writeWord (s.sp.toNat - 2) v } := by
  have hsub : (s.sp - 2#16).toNat = s.sp.toNat - 2 := by
    have := s.sp.isLt
    simp [BitVec.toNat_sub]; omega
  have hin : WordIn (s.sp - 2#16) := by rw [WordIn, hsub]; omega
  have h2 : ¬ s.sp.toNat < 2 := by omega
  simp only [State.push16, h2, if_false, memWrite16_of_in hin, hsub]

theorem push16_overflow {s : State} (h : s.sp.toNat < 2) (v : Word) :
    s.push16 v = .fault (.stackOverflow s.console) := by
  simp [State.push16, h]

theorem push16_outside {s : State} (h : 0x4000 < s.sp.toNat) (v : Word) :
    s.push16 v = .fault (.memoryOutOfRange s.console) := by
  have hsub : (s.sp - 2#16).toNat = s.sp.toNat - 2 := by
    have := s.sp.isLt
    simp [BitVec.toNat_sub]; omega
  have hin : ¬ WordIn (s.sp - 2#16) := by rw [WordIn, hsub]; omega
  have h2 : ¬ s.sp.toNat < 2 := by omega
  simp only [State.push16, h2, if_false, memWrite16_of_out hin]

/-- What a push does. -/
theorem push16_eq_next {s t : State} {v : Word} :
    s.push16 v = .next t ↔
      CanPush s ∧ t = { s with sp := s.sp - 2#16, mem := s.mem.writeWord (s.sp.toNat - 2) v } := by
  by_cases h : CanPush s
  · rw [push16_of_can h]
    exact ⟨fun hn => ⟨h, (Host.Outcome.next.inj hn).symm⟩, fun hn => by rw [hn.2]⟩
  · by_cases h2 : s.sp.toNat < 2
    · simp [push16_overflow h2, h]
    · simp [push16_outside (show 0x4000 < s.sp.toNat by omega), h]

theorem pop16_of_can {s : State} (h : CanPop s) :
    s.pop16 = .next (s.wordAt s.sp, { s with sp := s.sp + 2#16 }) := by
  have h2 : ¬ 0x3FFE < s.sp.toNat := by omega
  simp only [State.pop16, h2, if_false, memRead16_of_in (show WordIn s.sp from h), andThen_next]

theorem pop16_underflow {s : State} (h : ¬ CanPop s) : s.pop16 = .fault (.stackUnderflow s.console) := by
  have h2 : 0x3FFE < s.sp.toNat := by omega
  simp only [State.pop16, h2, if_true]

/-- What a pop does. -/
theorem pop16_eq_next {s t : State} {v : Word} :
    s.pop16 = .next (v, t) ↔ CanPop s ∧ v = s.wordAt s.sp ∧ t = { s with sp := s.sp + 2#16 } := by
  by_cases h : CanPop s
  · simp [pop16_of_can h, h, eq_comm]
  · simp [pop16_underflow h, h]

/-! ### Taking an interrupt and returning from one -/

/-- What the entry of a vector does. -/
theorem enterInterrupt_eq_next {s t : State} {id : Byte} :
    s.enterInterrupt id = .next t ↔
      CanPushTwice s ∧ ∃ u : State, u = { s with
        sp := s.sp - 4#16
        flags := { s.flags with interrupt := false }
        mem := (s.mem.writeWord (s.sp.toNat - 2) s.flags.toWord).writeWord (s.sp.toNat - 4) s.ip } ∧
      t = u.setIp (u.wordAt (ivtAddress id)) := by
  have hivt : WordIn (ivtAddress id) := by
    have := id.isLt
    simp [ivtAddress, WordIn, BitVec.toNat_mul]; omega
  have hlt := s.sp.isLt
  have hsub2 : 2 ≤ s.sp.toNat → (s.sp - 2#16).toNat = s.sp.toNat - 2 := fun _ => by
    simp [BitVec.toNat_sub]; omega
  have hsub4 : s.sp - 2#16 - 2#16 = s.sp - 4#16 := by
    apply BitVec.eq_of_toNat_eq; simp [BitVec.toNat_sub]; omega
  simp only [State.enterInterrupt, andThen_eq_next, push16_eq_next, memRead16_eq_next]
  constructor
  · rintro ⟨s1, ⟨h1, rfl⟩, s2, ⟨h2, rfl⟩, v, ⟨-, rfl⟩, h⟩
    have h2' : 2 ≤ (s.sp - 2#16).toNat ∧ (s.sp - 2#16).toNat ≤ 0x4000 := h2
    rw [hsub2 h1.1] at h2'
    simp only [Host.Outcome.next.injEq] at h
    refine ⟨by omega, _, rfl, ?_⟩
    rw [← h]
    simp only [setInterrupt_sp, setInterrupt_mem, setInterrupt_flags, hsub2 h1.1, hsub4, Nat.sub_sub]
    rfl
  · rintro ⟨hp, u, rfl, rfl⟩
    refine ⟨_, ⟨by omega, rfl⟩, _, ⟨?_, rfl⟩, _, ⟨hivt, rfl⟩, ?_⟩
    · simp only [setInterrupt_sp, CanPush, hsub2 (by omega : 2 ≤ s.sp.toNat)]; omega
    · simp only [setInterrupt_sp, setInterrupt_mem, setInterrupt_flags, hsub2 (by omega : 2 ≤ s.sp.toNat), hsub4,
        Nat.sub_sub]
      rfl

/-- What the return from an interrupt does. -/
theorem returnFromInterrupt_eq_next {s t : State} :
    s.returnFromInterrupt = .next t ↔
      CanPopTwice s ∧ t = ({ s with sp := s.sp + 4#16 }.setIp (s.wordAt s.sp)).loadFlags (s.wordAt (s.sp + 2#16)) := by
  have hlt := s.sp.isLt
  have hadd4 : s.sp + 2#16 + 2#16 = s.sp + 4#16 := by
    apply BitVec.eq_of_toNat_eq; simp [BitVec.toNat_add]
  simp only [State.returnFromInterrupt, andThen_eq_next, Prod.exists, pop16_eq_next]
  constructor
  · rintro ⟨v, s1, ⟨h1, rfl, rfl⟩, w, s2, ⟨h2, rfl, rfl⟩, h⟩
    simp only [Host.Outcome.next.injEq] at h
    have h2' : (s.sp + 2#16).toNat ≤ 0x3FFE := h2
    have : (s.sp + 2#16).toNat = s.sp.toNat + 2 := by simp [BitVec.toNat_add]; omega
    refine ⟨by omega, ?_⟩
    rw [← h]
    simp only [setIp_sp, hadd4]
    rfl
  · rintro ⟨hp, rfl⟩
    have : (s.sp + 2#16).toNat = s.sp.toNat + 2 := by simp [BitVec.toNat_add]; omega
    refine ⟨_, _, ⟨by omega, rfl, rfl⟩, _, _, ⟨?_, rfl, rfl⟩, ?_⟩
    · simp only [setIp_sp, CanPop, this]; omega
    · simp only [setIp_sp, hadd4]
      rfl

/-! ### The I/O space -/

/-- What a port read does. -/
theorem ioRead_eq_next {s : State} {p v : Byte} :
    s.ioRead p = .next v ↔ s.ioInvalid p .read = false ∧
      v = match deviceReg s.params p with | some r => s.readDevice r | none => 0x00#8 := by
  unfold State.ioRead
  cases s.ioInvalid p .read <;> simp
  exact eq_comm

/-- What a port write does. -/
theorem ioWrite_eq_next {s t : State} {p b : Byte} :
    s.ioWrite p b = .next t ↔ s.ioInvalid p .write = false ∧
      t = match deviceReg s.params p with | some r => s.writeDevice r b | none => s := by
  unfold State.ioWrite
  cases s.ioInvalid p .write <;> simp
  exact eq_comm

/-- `IoInvalid` is the graph the parameters carry. -/
theorem ioInvalid_eq_false_iff {s : State} {p : Byte} {dir : IoDir} :
    s.ioInvalid p dir = false ↔ PortAllowed s p dir := by
  simp [State.ioInvalid, PortAllowed]

/-- A device write leaves everything but the devices' registers alone, and keeps IRR and ISR. -/
theorem writeDevice_frame (s : State) (r : DeviceReg) (b : Byte) :
    s.writeDevice r b = { s with
      pic := (s.writeDevice r b).pic
      pio := (s.writeDevice r b).pio
      timer := (s.writeDevice r b).timer
      hs := (s.writeDevice r b).hs } ∧
    (s.writeDevice r b).pic.irr = s.pic.irr ∧ (s.writeDevice r b).pic.isr = s.pic.isr := by
  cases r <;> try exact ⟨rfl, rfl, rfl⟩
  unfold State.writeDevice
  cases h : s.hs.busy <;> simp

/-! ### Operands -/

/-- What the read of a byte location does. -/
theorem readLoc8_eq_next {s : State} {l : Loc8} {v : Byte} :
    s.readLoc8 l = .next v ↔
      match l with
      | .reg r => v = s.reg8 r
      | .mem ea => ByteIn ea ∧ v = s.byteAt ea := by
  cases l with
  | reg r => simp [State.readLoc8, eq_comm]
  | mem ea => exact memRead8_eq_next

/-- What the read of a word location does. -/
theorem readLoc16_eq_next {s : State} {l : Loc16} {v : Word} :
    s.readLoc16 l = .next v ↔
      match l with
      | .reg r => v = s.reg16 r
      | .mem ea => WordIn ea ∧ v = s.wordAt ea := by
  cases l with
  | reg r => simp [State.readLoc16, eq_comm]
  | mem ea => exact memRead16_eq_next

/-- What the write of a byte location does. -/
theorem writeLoc8_eq_next {s t : State} {l : Loc8} {v : Byte} :
    s.writeLoc8 l v = .next t ↔
      match l with
      | .reg r => t = s.setReg8 r v
      | .mem ea => ByteIn ea ∧ t = { s with mem := s.mem.write ea.toNat v } := by
  cases l with
  | reg r => simp [State.writeLoc8, eq_comm]
  | mem ea => exact memWrite8_eq_next

/-- What the write of a word location does. -/
theorem writeLoc16_eq_next {s t : State} {l : Loc16} {v : Word} :
    s.writeLoc16 l v = .next t ↔
      match l with
      | .reg r => t = s.setReg16 r v
      | .mem ea => WordIn ea ∧ t = { s with mem := s.mem.writeWord ea.toNat v } := by
  cases l with
  | reg r => simp [State.writeLoc16, eq_comm]
  | mem ea => exact memWrite16_eq_next

/-- What every write of a byte location leaves alone, and that it keeps memory canonical. -/
theorem writeLoc8_frame {s t : State} {l : Loc8} {v : Byte} (h : s.writeLoc8 l v = .next t) :
    SameOutside s t ∧ t.ip = s.ip ∧ t.flags = s.flags ∧ t.sp = s.sp ∧ (s.mem.wf = true → t.mem.wf = true) := by
  rw [writeLoc8_eq_next] at h
  cases l with
  | reg r => subst h; cases r <;> exact ⟨rfl, rfl, rfl, rfl, id⟩
  | mem ea =>
    obtain ⟨hin, rfl⟩ := h
    exact ⟨rfl, rfl, rfl, rfl, fun hm => write_wf hm (by simp only [Config.memSize]; omega) v⟩

/-- What every write of a word location leaves alone, and that it keeps memory canonical. -/
theorem writeLoc16_frame {s t : State} {l : Loc16} {v : Word} (h : s.writeLoc16 l v = .next t) :
    SameOutside s t ∧ t.ip = s.ip ∧ t.flags = s.flags ∧ (s.mem.wf = true → t.mem.wf = true) := by
  rw [writeLoc16_eq_next] at h
  cases l with
  | reg r => subst h; cases r <;> exact ⟨rfl, rfl, rfl, id⟩
  | mem ea =>
    obtain ⟨hin, rfl⟩ := h
    exact ⟨rfl, rfl, rfl, fun hm => writeWord_wf hm (by simp only [Config.memSize]; omega) v⟩

/-- Flags then a location written: the frame of both. -/
theorem SameOutside.of_setFlags {s t : State} {f : Flags} (h : SameOutside (s.setFlags f) t) : SameOutside s t := by
  unfold SameOutside at *; rw [h]; rfl

theorem SameOutside.refl (s : State) : SameOutside s s := rfl

theorem SameOutside.trans {s t u : State} (h : SameOutside s t) (h' : SameOutside t u) : SameOutside s u := by
  unfold SameOutside at *; rw [h', h]

/-! ### The shared bodies -/

/-- What every Binary instruction that computes leaves alone. -/
theorem binary_frame {op : AluOp} {o : BinOperands} {s t : State} (h : binary op o s = .next t) :
    SameOutside s t ∧ t.ip = s.ip ∧ t.flags.interrupt = s.flags.interrupt ∧ (s.mem.wf = true → t.mem.wf = true) := by
  cases o with
  | byte dst src =>
    simp only [binary, andThen_eq_next] at h
    obtain ⟨a, -, b, -, h⟩ := h
    obtain ⟨h1, h2, h3, -, h5⟩ := writeLoc8_frame h
    exact ⟨h1.of_setFlags, h2, by rw [h3]; rfl, h5⟩
  | word dst src =>
    simp only [binary, andThen_eq_next] at h
    obtain ⟨a, -, b, -, h⟩ := h
    obtain ⟨h1, h2, h3, h5⟩ := writeLoc16_frame h
    exact ⟨h1.of_setFlags, h2, by rw [h3]; rfl, h5⟩

/-- What CMP leaves alone. -/
theorem compareOnly_frame {o : BinOperands} {s t : State} (h : compareOnly o s = .next t) :
    t = s.setFlags t.flags ∧ t.flags.interrupt = s.flags.interrupt := by
  cases o <;>
  · simp only [compareOnly, andThen_eq_next, Host.Outcome.next.injEq] at h
    obtain ⟨a, -, b, -, rfl⟩ := h
    exact ⟨rfl, rfl⟩

/-- What MOV leaves alone. -/
theorem move_frame {o : BinOperands} {s t : State} (h : move o s = .next t) :
    SameOutside s t ∧ t.ip = s.ip ∧ t.flags = s.flags ∧ (s.mem.wf = true → t.mem.wf = true) := by
  cases o with
  | byte dst src =>
    simp only [move, andThen_eq_next] at h
    obtain ⟨a, -, h⟩ := h
    obtain ⟨h1, h2, h3, -, h5⟩ := writeLoc8_frame h
    exact ⟨h1, h2, h3, h5⟩
  | word dst src =>
    simp only [move, andThen_eq_next] at h
    obtain ⟨a, -, h⟩ := h
    exact writeLoc16_frame h

/-- What every Unary instruction leaves alone. -/
theorem unary_frame {op : UnOp} {o : UnOperand} {s t : State} (h : unary op o s = .next t) :
    SameOutside s t ∧ t.ip = s.ip ∧ (∃ n, ∃ r : AluOut n, t.flags = s.flags.afterUnary op r) ∧
      (s.mem.wf = true → t.mem.wf = true) := by
  cases o with
  | byte l =>
    simp only [unary, andThen_eq_next] at h
    obtain ⟨a, -, h⟩ := h
    obtain ⟨h1, h2, h3, -, h5⟩ := writeLoc8_frame h
    exact ⟨h1.of_setFlags, h2, ⟨_, _, h3⟩, h5⟩
  | word l =>
    simp only [unary, andThen_eq_next] at h
    obtain ⟨a, -, h⟩ := h
    obtain ⟨h1, h2, h3, h5⟩ := writeLoc16_frame h
    exact ⟨h1.of_setFlags, h2, ⟨_, _, h3⟩, h5⟩

/-! ### The console -/

/-- What the console output of INT 7 does: it completes exactly where every byte exists, and appends those bytes. -/
theorem printBytes_eq_next {n : Nat} {a : Word} {s t : State} :
    printBytes n a s = .next t ↔ (n = 0 ∨ a.toNat + n ≤ 0x4000) ∧
      t = { s with console := s.console ++ (List.range n).map fun k => s.mem.read (a.toNat + k) } := by
  induction n generalizing a s with
  | zero => simp [printBytes, eq_comm]
  | succ n ih =>
    simp only [printBytes, andThen_eq_next, memRead8_eq_next]
    have hlt := a.isLt
    have hadd : ByteIn a → (a + 1#16).toNat = a.toNat + 1 := fun _ => by simp [BitVec.toNat_add]; omega
    have hlist : (List.range (n + 1)).map (fun k => s.mem.read (a.toNat + k)) =
        s.byteAt a :: (List.range n).map fun k => s.mem.read (a.toNat + 1 + k) := by
      rw [List.range_succ_eq_map]
      simp only [List.map_cons, List.map_map, Function.comp_def, Nat.add_zero, State.byteAt, Nat.succ_eq_add_one]
      congr 1
      exact List.map_congr_left fun k _ => by rw [Nat.add_right_comm, Nat.add_assoc]
    constructor
    · rintro ⟨b, ⟨hin, rfl⟩, h⟩
      rw [ih, hadd hin] at h
      refine ⟨by omega, ?_⟩
      rw [h.2, hlist]
      simp [State.consoleOut]
    · rintro ⟨hn, rfl⟩
      have hin : ByteIn a := by omega
      refine ⟨_, ⟨hin, rfl⟩, ih.2 ⟨?_, ?_⟩⟩
      · rw [hadd hin]; omega
      · rw [hlist, hadd hin]; simp [State.consoleOut]

/-! ### The PIC and the boundary -/

/-- What `PIC.update()` can answer. -/
theorem picUpdate_eq_next {s t : State} {id : Option Byte} (h : picUpdate s = .next (id, t)) :
    (id = none ∧ t = { s with pic := { s.pic with isr := 0x00#8, eoi := 0x00#8 } }) ∨ (id = none ∧ t = s) ∨
    (s.pic.isr = 0#8 ∧ s.flags.interrupt = true ∧ ∃ n : Fin 8, lowestLine s.pic.eligible = some n ∧
      s.params.reservedIds.contains (s.pic.vec.get n) = false ∧ id = some (s.pic.vec.get n) ∧
      t = { s with pic := s.pic.acknowledge n }) := by
  unfold picUpdate at h
  split at h
  · cases h; exact .inl ⟨rfl, rfl⟩
  · split at h
    · cases h; exact .inr (.inl ⟨rfl, rfl⟩)
    · rename_i h1
      split at h
      · cases h; exact .inr (.inl ⟨rfl, rfl⟩)
      · rename_i n hn
        split at h
        · cases h
        · rename_i hr
          cases h
          refine .inr (.inr ⟨?_, ?_, n, hn, by simpa using hr, rfl, rfl⟩)
          · exact Classical.byContradiction fun hc => h1 (.inl hc)
          · cases hf : s.flags.interrupt
            · exact absurd (.inr hf) h1
            · rfl

/-- What the start of a boundary's service can answer: no entry, or the entry of the selected vector. -/
theorem serviceInterrupts_eq_next {s t : State} (h : serviceInterrupts s = .next t) :
    t = s ∨ t = { s with pic := { s.pic with isr := 0x00#8, eoi := 0x00#8 } } ∨
    (s.pic.isr = 0#8 ∧ s.flags.interrupt = true ∧ ∃ n : Fin 8, lowestLine s.pic.eligible = some n ∧
      ({ s with pic := s.pic.acknowledge n } : State).enterInterrupt (s.pic.vec.get n) = .next t) := by
  simp only [serviceInterrupts, andThen_eq_next, Prod.exists] at h
  obtain ⟨id, u, hu, h⟩ := h
  rcases picUpdate_eq_next hu with ⟨rfl, rfl⟩ | ⟨rfl, rfl⟩ | ⟨h1, h2, n, hn, -, rfl, rfl⟩
  · cases h; exact .inr (.inl rfl)
  · cases h; exact .inl rfl
  · exact .inr (.inr ⟨h1, h2, n, hn, h⟩)

/-- What a host event leaves alone: only the console, the devices and the switches can change. -/
theorem hostEvent_frame {s t : State} {e : HostEvent} (h : s.hostEvent e = .next t) :
    t = { s with console := t.console, pic := { s.pic with irr := t.pic.irr }, pio := t.pio, timer := t.timer,
                 hs := t.hs, switches := t.switches } ∧
    (t.hs = s.hs ∨ t.hs = { s.hs with state := clearBit s.hs.state 0 }) ∧ ∃ out, t.console = s.console ++ out := by
  cases e <;> simp only [State.hostEvent] at h
  case clockTick =>
    cases h
    by_cases hc : s.timer.cont + 1#8 = s.timer.comp <;> simp [State.timerTick, hc, State.request]
  case switchToggle =>
    split at h
    · cases h; exact ⟨rfl, .inl rfl, [], by simp [State.switchToggle, State.pioDriveA]⟩
    · cases h
  case printerDone =>
    split at h
    · cases h
      cases hi : s.hs.irqEnable <;> simp only [State.printerDone, hi] <;>
        exact ⟨rfl, .inr rfl, [s.hs.data], rfl⟩
    · cases h
  all_goals cases h; exact ⟨rfl, .inl rfl, [], by simp⟩

/-- The events of a boundary end in a state exactly when each does in turn. -/
theorem hostEventsAt_eq_next {es : List HostEvent} {s t : State} :
    hostEventsAt es s = .next t ↔ AppliesEvents es s t := by
  induction es generalizing s with
  | nil => simp [hostEventsAt, AppliesEvents, eq_comm]
  | cons e es ih => simp [hostEventsAt, AppliesEvents, andThen_eq_next, ih]

/-- A boundary whose events leave `u` is the service of `u`. -/
theorem boundary_of_afterEvents {s u : State} (h : AfterEvents s u) : boundary s = serviceInterrupts u := by
  rcases h with ⟨he, rfl⟩ | ⟨es, later, he, h⟩
  · simp [boundary, takeHostEvents, he]
  · simp [boundary, takeHostEvents, he, hostEventsAt_eq_next.2 h]

/-! ### The fetch and the step -/

/-- What fetching can answer, under any encoding. -/
theorem fetchDecodeWith_eq_next {enc : InstrEncoding} {s t : State} {i : Instr} :
    fetchDecodeWith enc s = .next (i, t) ↔
      (∃ rest, enc.decode (fetchBytes s.mem s.ip enc.maxLength) = .ok i rest) ∧
      t = s.setIp (s.ip + BitVec.ofNat 16 (enc.length i)) := by
  unfold fetchDecodeWith
  cases enc.decode (fetchBytes s.mem s.ip enc.maxLength) with
  | ok j rest =>
    constructor
    · intro h; cases h; exact ⟨⟨rest, rfl⟩, rfl⟩
    · rintro ⟨⟨r, hr⟩, rfl⟩; cases hr; rfl
  | truncated => simp
  | illegal why => simp

/-- What fetching can answer. -/
theorem fetchDecode_eq_next {s t : State} {i : Instr} :
    fetchDecode s = .next (i, t) ↔
      (∃ rest, decode (fetchBytes s.mem s.ip maxLength) = .ok i rest) ∧
      t = s.setIp (s.ip + BitVec.ofNat 16 i.length) := fetchDecodeWith_eq_next

/-- A running machine's step. -/
theorem stepWith_running {enc : InstrEncoding} {s : State} (h : s.status = .running) :
    stepWith enc s = andThen (boundary s) fun t =>
      andThen (fetchDecodeWith enc t) fun (i, t1) => endOfInstruction (exec i t1) := by
  simp only [stepWith, h]; rfl

/-- A running machine's step with the encoding of 30_encoding. -/
theorem step_running {s : State} (h : s.status = .running) :
    step s = andThen (boundary s) fun t =>
      andThen (fetchDecode t) fun (i, t1) => endOfInstruction (exec i t1) := stepWith_running h

/-- A waiting machine's step. -/
theorem step_awaiting {s : State} (h : s.status = .awaitingInput) : step s = resumeInt6 s := by
  simp only [step, stepWith, h]

/-- A halted machine's step. -/
theorem step_halted {s : State} (h : s.status = .halted) : step s = .next s := by
  simp only [step, stepWith, h]

/-- A byte of the fetch window, where the whole window up to it is in memory. -/
theorem fetchBytes_getElem? (m : Memory) (a : Word) (n k : Nat) (h : a.toNat + n ≤ 0x4000) (hk : k < n) :
    (fetchBytes m a n)[k]? = some (m.read (a.toNat + k)) := by
  induction n generalizing a k with
  | zero => omega
  | succ n ih =>
    have hin : inRange a = true := (inRange_iff a).2 (by simp only [ByteIn]; omega)
    simp only [fetchBytes, hin, if_true]
    cases k with
    | zero => simp
    | succ k =>
      by_cases ha : a.toNat + 1 < 65536
      · have hadd : (a + 1#16).toNat = a.toNat + 1 := by simp [BitVec.toNat_add]; omega
        have hb : (a + 1#16).toNat + n ≤ 0x4000 := by omega
        rw [List.getElem?_cons_succ, ih (a + 1#16) k hb (by omega), hadd]
        congr 2; omega
      · omega

end Sys2Proof.Machine
end

