-- ==== Sys2Proof/Laws/Exec.lean ====
section
/-! SUPPORT. The dispatch once for the Binary and the Unary class: which shared body an instruction's meaning is. -/

namespace Sys2Proof

/-- Every instruction is a Binary one, a Unary one, or one of the other rows: the case analysis by class. -/
theorem Instr.byClass {P : Instr → Prop} (bin : ∀ op f, P (.ofBin op f)) (un : ∀ op f, P (.ofUn op f))
    (nop : P (.nop)) (hlt : P (.hlt)) (cli : P (.cli)) (sti : P (.sti)) (pushf : P (.pushf)) (popf : P (.popf))
    (ret : P (.ret)) (iret : P (.iret)) (push : ∀ (r : Reg16), P (.push r)) (pop : ∀ (r : Reg16), P (.pop r))
    (jmp : ∀ (addr : Word), P (.jmp addr)) (call : ∀ (addr : Word), P (.call addr))
    (jz : ∀ (addr : Word), P (.jz addr)) (jnz : ∀ (addr : Word), P (.jnz addr)) (jc : ∀ (addr : Word), P (.jc addr))
    (jnc : ∀ (addr : Word), P (.jnc addr)) (js : ∀ (addr : Word), P (.js addr)) (jns : ∀ (addr : Word), P (.jns addr))
    (jo : ∀ (addr : Word), P (.jo addr)) (jno : ∀ (addr : Word), P (.jno addr)) (intN : ∀ (n : Byte), P (.intN n))
    (int0 : P (.int0)) (int3 : P (.int3)) (int6 : P (.int6)) (int7 : P (.int7))
    (inPort : ∀ (w : Size) (port : Byte), P (.inPort w port)) (inDx : ∀ (w : Size), P (.inDx w))
    (outPort : ∀ (w : Size) (port : Byte), P (.outPort w port)) (outDx : ∀ (w : Size), P (.outDx w))
    (i : Instr) : P i := by
  cases i with
  | movRegReg p => exact bin .mov (.regReg p)
  | movRegBx d => exact bin .mov (.regBx d)
  | movRegMem d addr => exact bin .mov (.regMem d addr)
  | movBxReg r => exact bin .mov (.bxReg r)
  | movMemReg addr r => exact bin .mov (.memReg addr r)
  | movRegImm q => exact bin .mov (.regImm q)
  | movBxImm v => exact bin .mov (.bxImm v)
  | movMemImm addr v => exact bin .mov (.memImm addr v)
  | addRegReg p => exact bin .add (.regReg p)
  | addRegBx d => exact bin .add (.regBx d)
  | addRegMem d addr => exact bin .add (.regMem d addr)
  | addBxReg r => exact bin .add (.bxReg r)
  | addMemReg addr r => exact bin .add (.memReg addr r)
  | addRegImm q => exact bin .add (.regImm q)
  | addBxImm v => exact bin .add (.bxImm v)
  | addMemImm addr v => exact bin .add (.memImm addr v)
  | adcRegReg p => exact bin .adc (.regReg p)
  | adcRegBx d => exact bin .adc (.regBx d)
  | adcRegMem d addr => exact bin .adc (.regMem d addr)
  | adcBxReg r => exact bin .adc (.bxReg r)
  | adcMemReg addr r => exact bin .adc (.memReg addr r)
  | adcRegImm q => exact bin .adc (.regImm q)
  | adcBxImm v => exact bin .adc (.bxImm v)
  | adcMemImm addr v => exact bin .adc (.memImm addr v)
  | subRegReg p => exact bin .sub (.regReg p)
  | subRegBx d => exact bin .sub (.regBx d)
  | subRegMem d addr => exact bin .sub (.regMem d addr)
  | subBxReg r => exact bin .sub (.bxReg r)
  | subMemReg addr r => exact bin .sub (.memReg addr r)
  | subRegImm q => exact bin .sub (.regImm q)
  | subBxImm v => exact bin .sub (.bxImm v)
  | subMemImm addr v => exact bin .sub (.memImm addr v)
  | sbbRegReg p => exact bin .sbb (.regReg p)
  | sbbRegBx d => exact bin .sbb (.regBx d)
  | sbbRegMem d addr => exact bin .sbb (.regMem d addr)
  | sbbBxReg r => exact bin .sbb (.bxReg r)
  | sbbMemReg addr r => exact bin .sbb (.memReg addr r)
  | sbbRegImm q => exact bin .sbb (.regImm q)
  | sbbBxImm v => exact bin .sbb (.bxImm v)
  | sbbMemImm addr v => exact bin .sbb (.memImm addr v)
  | cmpRegReg p => exact bin .cmp (.regReg p)
  | cmpRegBx d => exact bin .cmp (.regBx d)
  | cmpRegMem d addr => exact bin .cmp (.regMem d addr)
  | cmpBxReg r => exact bin .cmp (.bxReg r)
  | cmpMemReg addr r => exact bin .cmp (.memReg addr r)
  | cmpRegImm q => exact bin .cmp (.regImm q)
  | cmpBxImm v => exact bin .cmp (.bxImm v)
  | cmpMemImm addr v => exact bin .cmp (.memImm addr v)
  | andRegReg p => exact bin .and (.regReg p)
  | andRegBx d => exact bin .and (.regBx d)
  | andRegMem d addr => exact bin .and (.regMem d addr)
  | andBxReg r => exact bin .and (.bxReg r)
  | andMemReg addr r => exact bin .and (.memReg addr r)
  | andRegImm q => exact bin .and (.regImm q)
  | andBxImm v => exact bin .and (.bxImm v)
  | andMemImm addr v => exact bin .and (.memImm addr v)
  | orRegReg p => exact bin .or (.regReg p)
  | orRegBx d => exact bin .or (.regBx d)
  | orRegMem d addr => exact bin .or (.regMem d addr)
  | orBxReg r => exact bin .or (.bxReg r)
  | orMemReg addr r => exact bin .or (.memReg addr r)
  | orRegImm q => exact bin .or (.regImm q)
  | orBxImm v => exact bin .or (.bxImm v)
  | orMemImm addr v => exact bin .or (.memImm addr v)
  | xorRegReg p => exact bin .xor (.regReg p)
  | xorRegBx d => exact bin .xor (.regBx d)
  | xorRegMem d addr => exact bin .xor (.regMem d addr)
  | xorBxReg r => exact bin .xor (.bxReg r)
  | xorMemReg addr r => exact bin .xor (.memReg addr r)
  | xorRegImm q => exact bin .xor (.regImm q)
  | xorBxImm v => exact bin .xor (.bxImm v)
  | xorMemImm addr v => exact bin .xor (.memImm addr v)
  | incReg r => exact un .inc (.reg r)
  | incBx w => exact un .inc (.bx w)
  | incMem w addr => exact un .inc (.mem w addr)
  | decReg r => exact un .dec (.reg r)
  | decBx w => exact un .dec (.bx w)
  | decMem w addr => exact un .dec (.mem w addr)
  | negReg r => exact un .neg (.reg r)
  | negBx w => exact un .neg (.bx w)
  | negMem w addr => exact un .neg (.mem w addr)
  | notReg r => exact un .not (.reg r)
  | notBx w => exact un .not (.bx w)
  | notMem w addr => exact un .not (.mem w addr)
  | nop => exact nop
  | hlt => exact hlt
  | cli => exact cli
  | sti => exact sti
  | pushf => exact pushf
  | popf => exact popf
  | ret => exact ret
  | iret => exact iret
  | push r => exact push r
  | pop r => exact pop r
  | jmp addr => exact jmp addr
  | call addr => exact call addr
  | jz addr => exact jz addr
  | jnz addr => exact jnz addr
  | jc addr => exact jc addr
  | jnc addr => exact jnc addr
  | js addr => exact js addr
  | jns addr => exact jns addr
  | jo addr => exact jo addr
  | jno addr => exact jno addr
  | intN n => exact intN n
  | int0 => exact int0
  | int3 => exact int3
  | int6 => exact int6
  | int7 => exact int7
  | inPort w port => exact inPort w port
  | inDx w => exact inDx w
  | outPort w port => exact outPort w port
  | outDx w => exact outDx w

namespace Machine

/-- The shared body of each Binary operation. -/
def binBody : BinOp → BinOperands → State → Result State
  | .mov => move
  | .add => binary .add
  | .adc => binary .adc
  | .sub => binary .sub
  | .sbb => binary .sbb
  | .cmp => compareOnly
  | .and => binary .and
  | .or => binary .or
  | .xor => binary .xor

/-- A Binary instruction runs the body of its operation on the operands of its form. -/
theorem exec_ofBin (op : BinOp) (f : BinForm) (s : State) :
    exec (.ofBin op f) s = binBody op (binOperands f s) s := by
  cases op <;> cases f <;> rfl

/-- A Unary instruction runs the Unary body on its operand. -/
theorem exec_ofUn (op : UnOp) (f : UnForm) (s : State) : exec (.ofUn op f) s = unary op (unOperand f s) s := by
  cases op <;> cases f <;> rfl

/-- What every Binary instruction leaves alone. -/
theorem exec_ofBin_frame {op : BinOp} {f : BinForm} {s t : State} (h : exec (.ofBin op f) s = .next t) :
    SameOutside s t ∧ t.ip = s.ip ∧ t.flags.interrupt = s.flags.interrupt ∧ (s.mem.wf = true → t.mem.wf = true) := by
  rw [exec_ofBin] at h
  cases op
  case mov => obtain ⟨h1, h2, h3, h4⟩ := move_frame h; exact ⟨h1, h2, by rw [h3], h4⟩
  case cmp =>
    obtain ⟨h1, h2⟩ := compareOnly_frame h
    rw [h1]
    exact ⟨rfl, rfl, h2, id⟩
  all_goals exact binary_frame h

/-- What every Unary instruction leaves alone. -/
theorem exec_ofUn_frame {op : UnOp} {f : UnForm} {s t : State} (h : exec (.ofUn op f) s = .next t) :
    SameOutside s t ∧ t.ip = s.ip ∧ t.flags.interrupt = s.flags.interrupt ∧ (s.mem.wf = true → t.mem.wf = true) := by
  rw [exec_ofUn] at h
  obtain ⟨h1, h2, ⟨n, r, h3⟩, h4⟩ := unary_frame h
  exact ⟨h1, h2, by rw [h3]; cases op <;> rfl, h4⟩

end Machine
end Sys2Proof
end

