-- ==== Sys2Proof/Laws/PerInstr.lean ====
section
/-! SUPPORT. The statements for all instructions, one lemma per instruction. -/

namespace Sys2Proof.Laws.EncodedLength

/-- The encoder writes as many bytes as the length table says, and no instruction is longer than the fetch window (R88,
R143). -/
def Statement (i : Instr) : Prop := (encode i).length = i.length ∧ 1 ≤ i.length ∧ i.length ≤ maxLength

theorem bin (op : BinOp) (f : BinForm) :
    (encodeBin op f).length = f.length ∧ 1 ≤ f.length ∧ f.length ≤ maxLength := by
  cases f with
  | regReg p => cases p <;> simp [encodeBin, binBytes, BinForm.length, maxLength]
  | regImm q => cases q <;> simp [encodeBin, binBytes, BinForm.length, wordBytes, maxLength]
  | bxImm v => cases v <;> simp [encodeBin, binBytes, BinForm.length, Imm.size, Imm.bytes, Size.bytes, wordBytes, maxLength]
  | memImm addr v =>
    cases v <;> simp [encodeBin, binBytes, BinForm.length, Imm.size, Imm.bytes, Size.bytes, wordBytes, maxLength]
  | _ => simp [encodeBin, binBytes, BinForm.length, wordBytes, maxLength]

theorem un (op : UnOp) (f : UnForm) : (encodeUn op f).length = f.length ∧ 1 ≤ f.length ∧ f.length ≤ maxLength := by
  cases f <;> simp [encodeUn, UnForm.length, wordBytes, maxLength]

theorem movRegReg (p : RegPair) : Statement (.movRegReg p) := bin .mov (.regReg p)
theorem movRegBx (d : Reg) : Statement (.movRegBx d) := bin .mov (.regBx d)
theorem movRegMem (d : Reg) (addr : Word) : Statement (.movRegMem d addr) := bin .mov (.regMem d addr)
theorem movBxReg (r : Reg) : Statement (.movBxReg r) := bin .mov (.bxReg r)
theorem movMemReg (addr : Word) (r : Reg) : Statement (.movMemReg addr r) := bin .mov (.memReg addr r)
theorem movRegImm (q : RegImm) : Statement (.movRegImm q) := bin .mov (.regImm q)
theorem movBxImm (v : Imm) : Statement (.movBxImm v) := bin .mov (.bxImm v)
theorem movMemImm (addr : Word) (v : Imm) : Statement (.movMemImm addr v) := bin .mov (.memImm addr v)
theorem addRegReg (p : RegPair) : Statement (.addRegReg p) := bin .add (.regReg p)
theorem addRegBx (d : Reg) : Statement (.addRegBx d) := bin .add (.regBx d)
theorem addRegMem (d : Reg) (addr : Word) : Statement (.addRegMem d addr) := bin .add (.regMem d addr)
theorem addBxReg (r : Reg) : Statement (.addBxReg r) := bin .add (.bxReg r)
theorem addMemReg (addr : Word) (r : Reg) : Statement (.addMemReg addr r) := bin .add (.memReg addr r)
theorem addRegImm (q : RegImm) : Statement (.addRegImm q) := bin .add (.regImm q)
theorem addBxImm (v : Imm) : Statement (.addBxImm v) := bin .add (.bxImm v)
theorem addMemImm (addr : Word) (v : Imm) : Statement (.addMemImm addr v) := bin .add (.memImm addr v)
theorem adcRegReg (p : RegPair) : Statement (.adcRegReg p) := bin .adc (.regReg p)
theorem adcRegBx (d : Reg) : Statement (.adcRegBx d) := bin .adc (.regBx d)
theorem adcRegMem (d : Reg) (addr : Word) : Statement (.adcRegMem d addr) := bin .adc (.regMem d addr)
theorem adcBxReg (r : Reg) : Statement (.adcBxReg r) := bin .adc (.bxReg r)
theorem adcMemReg (addr : Word) (r : Reg) : Statement (.adcMemReg addr r) := bin .adc (.memReg addr r)
theorem adcRegImm (q : RegImm) : Statement (.adcRegImm q) := bin .adc (.regImm q)
theorem adcBxImm (v : Imm) : Statement (.adcBxImm v) := bin .adc (.bxImm v)
theorem adcMemImm (addr : Word) (v : Imm) : Statement (.adcMemImm addr v) := bin .adc (.memImm addr v)
theorem subRegReg (p : RegPair) : Statement (.subRegReg p) := bin .sub (.regReg p)
theorem subRegBx (d : Reg) : Statement (.subRegBx d) := bin .sub (.regBx d)
theorem subRegMem (d : Reg) (addr : Word) : Statement (.subRegMem d addr) := bin .sub (.regMem d addr)
theorem subBxReg (r : Reg) : Statement (.subBxReg r) := bin .sub (.bxReg r)
theorem subMemReg (addr : Word) (r : Reg) : Statement (.subMemReg addr r) := bin .sub (.memReg addr r)
theorem subRegImm (q : RegImm) : Statement (.subRegImm q) := bin .sub (.regImm q)
theorem subBxImm (v : Imm) : Statement (.subBxImm v) := bin .sub (.bxImm v)
theorem subMemImm (addr : Word) (v : Imm) : Statement (.subMemImm addr v) := bin .sub (.memImm addr v)
theorem sbbRegReg (p : RegPair) : Statement (.sbbRegReg p) := bin .sbb (.regReg p)
theorem sbbRegBx (d : Reg) : Statement (.sbbRegBx d) := bin .sbb (.regBx d)
theorem sbbRegMem (d : Reg) (addr : Word) : Statement (.sbbRegMem d addr) := bin .sbb (.regMem d addr)
theorem sbbBxReg (r : Reg) : Statement (.sbbBxReg r) := bin .sbb (.bxReg r)
theorem sbbMemReg (addr : Word) (r : Reg) : Statement (.sbbMemReg addr r) := bin .sbb (.memReg addr r)
theorem sbbRegImm (q : RegImm) : Statement (.sbbRegImm q) := bin .sbb (.regImm q)
theorem sbbBxImm (v : Imm) : Statement (.sbbBxImm v) := bin .sbb (.bxImm v)
theorem sbbMemImm (addr : Word) (v : Imm) : Statement (.sbbMemImm addr v) := bin .sbb (.memImm addr v)
theorem cmpRegReg (p : RegPair) : Statement (.cmpRegReg p) := bin .cmp (.regReg p)
theorem cmpRegBx (d : Reg) : Statement (.cmpRegBx d) := bin .cmp (.regBx d)
theorem cmpRegMem (d : Reg) (addr : Word) : Statement (.cmpRegMem d addr) := bin .cmp (.regMem d addr)
theorem cmpBxReg (r : Reg) : Statement (.cmpBxReg r) := bin .cmp (.bxReg r)
theorem cmpMemReg (addr : Word) (r : Reg) : Statement (.cmpMemReg addr r) := bin .cmp (.memReg addr r)
theorem cmpRegImm (q : RegImm) : Statement (.cmpRegImm q) := bin .cmp (.regImm q)
theorem cmpBxImm (v : Imm) : Statement (.cmpBxImm v) := bin .cmp (.bxImm v)
theorem cmpMemImm (addr : Word) (v : Imm) : Statement (.cmpMemImm addr v) := bin .cmp (.memImm addr v)
theorem andRegReg (p : RegPair) : Statement (.andRegReg p) := bin .and (.regReg p)
theorem andRegBx (d : Reg) : Statement (.andRegBx d) := bin .and (.regBx d)
theorem andRegMem (d : Reg) (addr : Word) : Statement (.andRegMem d addr) := bin .and (.regMem d addr)
theorem andBxReg (r : Reg) : Statement (.andBxReg r) := bin .and (.bxReg r)
theorem andMemReg (addr : Word) (r : Reg) : Statement (.andMemReg addr r) := bin .and (.memReg addr r)
theorem andRegImm (q : RegImm) : Statement (.andRegImm q) := bin .and (.regImm q)
theorem andBxImm (v : Imm) : Statement (.andBxImm v) := bin .and (.bxImm v)
theorem andMemImm (addr : Word) (v : Imm) : Statement (.andMemImm addr v) := bin .and (.memImm addr v)
theorem orRegReg (p : RegPair) : Statement (.orRegReg p) := bin .or (.regReg p)
theorem orRegBx (d : Reg) : Statement (.orRegBx d) := bin .or (.regBx d)
theorem orRegMem (d : Reg) (addr : Word) : Statement (.orRegMem d addr) := bin .or (.regMem d addr)
theorem orBxReg (r : Reg) : Statement (.orBxReg r) := bin .or (.bxReg r)
theorem orMemReg (addr : Word) (r : Reg) : Statement (.orMemReg addr r) := bin .or (.memReg addr r)
theorem orRegImm (q : RegImm) : Statement (.orRegImm q) := bin .or (.regImm q)
theorem orBxImm (v : Imm) : Statement (.orBxImm v) := bin .or (.bxImm v)
theorem orMemImm (addr : Word) (v : Imm) : Statement (.orMemImm addr v) := bin .or (.memImm addr v)
theorem xorRegReg (p : RegPair) : Statement (.xorRegReg p) := bin .xor (.regReg p)
theorem xorRegBx (d : Reg) : Statement (.xorRegBx d) := bin .xor (.regBx d)
theorem xorRegMem (d : Reg) (addr : Word) : Statement (.xorRegMem d addr) := bin .xor (.regMem d addr)
theorem xorBxReg (r : Reg) : Statement (.xorBxReg r) := bin .xor (.bxReg r)
theorem xorMemReg (addr : Word) (r : Reg) : Statement (.xorMemReg addr r) := bin .xor (.memReg addr r)
theorem xorRegImm (q : RegImm) : Statement (.xorRegImm q) := bin .xor (.regImm q)
theorem xorBxImm (v : Imm) : Statement (.xorBxImm v) := bin .xor (.bxImm v)
theorem xorMemImm (addr : Word) (v : Imm) : Statement (.xorMemImm addr v) := bin .xor (.memImm addr v)
theorem incReg (r : Reg) : Statement (.incReg r) := un .inc (.reg r)
theorem incBx (w : Size) : Statement (.incBx w) := un .inc (.bx w)
theorem incMem (w : Size) (addr : Word) : Statement (.incMem w addr) := un .inc (.mem w addr)
theorem decReg (r : Reg) : Statement (.decReg r) := un .dec (.reg r)
theorem decBx (w : Size) : Statement (.decBx w) := un .dec (.bx w)
theorem decMem (w : Size) (addr : Word) : Statement (.decMem w addr) := un .dec (.mem w addr)
theorem negReg (r : Reg) : Statement (.negReg r) := un .neg (.reg r)
theorem negBx (w : Size) : Statement (.negBx w) := un .neg (.bx w)
theorem negMem (w : Size) (addr : Word) : Statement (.negMem w addr) := un .neg (.mem w addr)
theorem notReg (r : Reg) : Statement (.notReg r) := un .not (.reg r)
theorem notBx (w : Size) : Statement (.notBx w) := un .not (.bx w)
theorem notMem (w : Size) (addr : Word) : Statement (.notMem w addr) := un .not (.mem w addr)
theorem nop : Statement (.nop) := ⟨rfl, (by decide : 1 ≤ 1), (by decide : 1 ≤ 6)⟩
theorem hlt : Statement (.hlt) := ⟨rfl, (by decide : 1 ≤ 1), (by decide : 1 ≤ 6)⟩
theorem cli : Statement (.cli) := ⟨rfl, (by decide : 1 ≤ 1), (by decide : 1 ≤ 6)⟩
theorem sti : Statement (.sti) := ⟨rfl, (by decide : 1 ≤ 1), (by decide : 1 ≤ 6)⟩
theorem pushf : Statement (.pushf) := ⟨rfl, (by decide : 1 ≤ 1), (by decide : 1 ≤ 6)⟩
theorem popf : Statement (.popf) := ⟨rfl, (by decide : 1 ≤ 1), (by decide : 1 ≤ 6)⟩
theorem ret : Statement (.ret) := ⟨rfl, (by decide : 1 ≤ 1), (by decide : 1 ≤ 6)⟩
theorem iret : Statement (.iret) := ⟨rfl, (by decide : 1 ≤ 1), (by decide : 1 ≤ 6)⟩
theorem push (r : Reg16) : Statement (.push r) := ⟨rfl, (by decide : 1 ≤ 1), (by decide : 1 ≤ 6)⟩
theorem pop (r : Reg16) : Statement (.pop r) := ⟨rfl, (by decide : 1 ≤ 1), (by decide : 1 ≤ 6)⟩
theorem jmp (addr : Word) : Statement (.jmp addr) := ⟨rfl, (by decide : 1 ≤ 3), (by decide : 3 ≤ 6)⟩
theorem call (addr : Word) : Statement (.call addr) := ⟨rfl, (by decide : 1 ≤ 3), (by decide : 3 ≤ 6)⟩
theorem jz (addr : Word) : Statement (.jz addr) := ⟨rfl, (by decide : 1 ≤ 3), (by decide : 3 ≤ 6)⟩
theorem jnz (addr : Word) : Statement (.jnz addr) := ⟨rfl, (by decide : 1 ≤ 3), (by decide : 3 ≤ 6)⟩
theorem jc (addr : Word) : Statement (.jc addr) := ⟨rfl, (by decide : 1 ≤ 3), (by decide : 3 ≤ 6)⟩
theorem jnc (addr : Word) : Statement (.jnc addr) := ⟨rfl, (by decide : 1 ≤ 3), (by decide : 3 ≤ 6)⟩
theorem js (addr : Word) : Statement (.js addr) := ⟨rfl, (by decide : 1 ≤ 3), (by decide : 3 ≤ 6)⟩
theorem jns (addr : Word) : Statement (.jns addr) := ⟨rfl, (by decide : 1 ≤ 3), (by decide : 3 ≤ 6)⟩
theorem jo (addr : Word) : Statement (.jo addr) := ⟨rfl, (by decide : 1 ≤ 3), (by decide : 3 ≤ 6)⟩
theorem jno (addr : Word) : Statement (.jno addr) := ⟨rfl, (by decide : 1 ≤ 3), (by decide : 3 ≤ 6)⟩
theorem intN (n : Byte) : Statement (.intN n) := ⟨rfl, (by decide : 1 ≤ 2), (by decide : 2 ≤ 6)⟩
theorem int0 : Statement (.int0) := ⟨rfl, (by decide : 1 ≤ 2), (by decide : 2 ≤ 6)⟩
theorem int3 : Statement (.int3) := ⟨rfl, (by decide : 1 ≤ 2), (by decide : 2 ≤ 6)⟩
theorem int6 : Statement (.int6) := ⟨rfl, (by decide : 1 ≤ 2), (by decide : 2 ≤ 6)⟩
theorem int7 : Statement (.int7) := ⟨rfl, (by decide : 1 ≤ 2), (by decide : 2 ≤ 6)⟩
theorem inPort (w : Size) (port : Byte) : Statement (.inPort w port) := ⟨rfl, (by decide : 1 ≤ 2), (by decide : 2 ≤ 6)⟩
theorem inDx (w : Size) : Statement (.inDx w) := ⟨rfl, (by decide : 1 ≤ 1), (by decide : 1 ≤ 6)⟩
theorem outPort (w : Size) (port : Byte) : Statement (.outPort w port) := ⟨rfl, (by decide : 1 ≤ 2), (by decide : 2 ≤ 6)⟩
theorem outDx (w : Size) : Statement (.outDx w) := ⟨rfl, (by decide : 1 ≤ 1), (by decide : 1 ≤ 6)⟩

end Sys2Proof.Laws.EncodedLength
end

