-- ==== Sys2Proof/Machine/Assembler.lean ====
section
/-! DEFINITION. The assembler from the parsed source on (30_encoding R151 to R159): expressions, operand legality, sizes,
the two passes and the two images.  The text before it is in Machine/AssemblyText.lean. -/

namespace Sys2Proof.Machine

/-- An identifier, upper-cased (R150). -/
abbrev Name := List Char

/-- The named errors of R150 to R157. -/
inductive AsmError where
  | unexpectedCharacter
  | unterminatedString
  /-- `expected-<token>` (R151). -/
  | expected (token : String)
  | duplicatedLabel
  | endMustBeLast
  | doubleMemoryAccess
  | destinationCannotBeImmediate
  | sizeMismatch
  | unknownSize
  | labelShouldBeANumber
  | labelShouldBeWritable
  | expectsImmediate
  | missingOrg
  | instructionOutOfRange
  | occupiedAddress
  | labelNotFound
  | labelUndefinedChain
  | valueOutOfRange
  /-- DESIGN CHOICE (log 17): operands outside R154's table for which the spec names no error. -/
  | illegalOperands
  deriving DecidableEq, Repr

/-- Number expressions (R152). -/
inductive Expr where
  | num (n : Nat)
  | name (l : Name)
  | offset (l : Name)
  | plus (e : Expr)
  | minus (e : Expr)
  | add (a b : Expr)
  | sub (a b : Expr)
  | mul (a b : Expr)
  deriving DecidableEq, Repr

/-- Operand syntax (R153); `none` is a bracket without `BYTE PTR` or `WORD PTR`. -/
inductive AsmOperand where
  | reg (r : Reg)
  | bx (w : Option Size)
  | direct (w : Option Size) (e : Expr)
  /-- A number expression, which may be one identifier alone. -/
  | value (e : Expr)
  deriving DecidableEq, Repr

/-- A value of `DB` or `DW` (R151). -/
inductive DataValue where
  | expr (e : Expr)
  /-- `?`. -/
  | reserved
  /-- A string, as its ASCII bytes. -/
  | text (bytes : List Byte)
  deriving DecidableEq, Repr

/-- The Zeroary mnemonics (R154). -/
inductive Zeroary where
  | nop | hlt | cli | sti | pushf | popf | ret | iret
  deriving DecidableEq, Repr

/-- The Jump mnemonics (R154). -/
inductive JumpOp where
  | jmp | call | jz | jnz | jc | jnc | js | jns | jo | jno
  deriving DecidableEq, Repr

/-- The mnemonics by class (R154). -/
inductive AsmMnemonic where
  | zeroary (z : Zeroary)
  | push
  | pop
  | unary (op : UnOp)
  | binary (op : BinOp)
  | jump (j : JumpOp)
  | int
  | input
  | output
  deriving DecidableEq, Repr

/-- The significant lines (R151). -/
inductive Stmt where
  /-- `ORG n`. -/
  | org (n : Word)
  /-- `END`. -/
  | finish
  /-- `DB` (byte) or `DW` (word). -/
  | data (label : Option Name) (w : Size) (values : List DataValue)
  | code (label : Option Name) (m : AsmMnemonic) (operands : List AsmOperand)
  | equ (label : Name) (e : Expr)
  deriving DecidableEq, Repr

/-- What a label stands for (R153, R156). -/
inductive LabelKind where
  | data (w : Size)
  | code
  | equ (e : Expr)
  deriving DecidableEq, Repr

/-- The labels, each with its kind and the pointer it records (R156). -/
abbrev Symbols := List (Name × LabelKind × Nat)

/-- A label's entry. -/
def findLabel (syms : Symbols) (l : Name) : Except AsmError (LabelKind × Nat) :=
  match syms.lookup l with
  | some entry => .ok entry
  | none => .error .labelNotFound

/-! ### Expressions (R152, R157) -/

/-- An expression over unbounded integers, given the values of names. -/
def evalExpr (syms : Symbols) (value : Name → Except AsmError Int) : Expr → Except AsmError Int
  | .num n => .ok n
  | .name l => value l
  | .offset l => (findLabel syms l).map fun entry => (entry.2 : Int)
  | .plus e => evalExpr syms value e
  | .minus e => (evalExpr syms value e).map fun v => -v
  | .add a b => do return (← evalExpr syms value a) + (← evalExpr syms value b)
  | .sub a b => do return (← evalExpr syms value a) - (← evalExpr syms value b)
  | .mul a b => do return (← evalExpr syms value a) * (← evalExpr syms value b)

/-- The value of a name: an `EQU` label's expression, resolved through at most `fuel` labels; a longer chain is a cycle.
DESIGN CHOICE (log 17): a cycle, or an undefined name behind an `EQU`, is `label-undefined-chain`. -/
def nameValue (syms : Symbols) : Nat → Name → Except AsmError Int
  | 0, _ => .error .labelUndefinedChain
  | fuel + 1, l =>
    match syms.lookup l with
    | none => .error .labelNotFound
    | some (.equ e, _) =>
      match evalExpr syms (nameValue syms fuel) e with
      | .error .labelNotFound => .error .labelUndefinedChain
      | v => v
    | some _ => .error .labelShouldBeANumber

/-- Pass 2's value of an expression. -/
def exprValue (syms : Symbols) (e : Expr) : Except AsmError Int := evalExpr syms (nameValue syms (syms.length + 1)) e

/-- A byte immediate or `DB` value: -128..255 (R157). -/
def byteValue (v : Int) : Except AsmError Byte :=
  if -128 ≤ v ∧ v ≤ 255 then .ok (BitVec.ofInt 8 v) else .error .valueOutOfRange

/-- A word immediate, `DW` value or address: -32768..65535 (R157). -/
def wordValue (v : Int) : Except AsmError Word :=
  if -32768 ≤ v ∧ v ≤ 65535 then .ok (BitVec.ofInt 16 v) else .error .valueOutOfRange

/-- An `INT` number or a port: 0..255 (R157). -/
def numberValue (v : Int) : Except AsmError Byte :=
  if 0 ≤ v ∧ v ≤ 255 then .ok (BitVec.ofInt 8 v) else .error .valueOutOfRange

/-- An immediate of a size. -/
def immValue (w : Size) (v : Int) : Except AsmError Imm :=
  match w with
  | .byte => (byteValue v).map .byte
  | .word => (wordValue v).map .word

/-! ### Operands and their legality (R153 to R155) -/

/-- The two effective-address forms (R130). -/
inductive MemTarget where
  | bx
  | direct (e : Expr)
  deriving DecidableEq, Repr

/-- An operand once its label, if any, is looked up. -/
inductive Resolved where
  | reg (r : Reg)
  | mem (w : Option Size) (t : MemTarget)
  /-- A number; `named` when it is an `EQU` label alone. -/
  | value (e : Expr) (named : Bool)
  | codeLabel (l : Name)
  deriving DecidableEq, Repr

/-- The operand behind the syntax: a data label is `[OFFSET label]` with the label's size (R153, R158).  DESIGN CHOICE
(log 17): a label alone in parentheses counts as the label, not as a number expression. -/
def resolveOperand (syms : Symbols) : AsmOperand → Except AsmError Resolved
  | .reg r => .ok (.reg r)
  | .bx w => .ok (.mem w .bx)
  | .direct w e => .ok (.mem w (.direct e))
  | .value (.name l) =>
    (findLabel syms l).map fun entry =>
      match entry.1 with
      | .data w => .mem (some w) (.direct (.offset l))
      | .code => .codeLabel l
      | .equ _ => .value (.name l) true
  | .value e => .ok (.value e false)

/-- The error of a destination that is no register and no memory (R154). -/
def notWritable (named : Bool) : AsmError := if named then .labelShouldBeWritable else .destinationCannotBeImmediate

/-- A Binary instruction's form, `ev` giving the values of expressions (R154, R155). -/
def binaryForm (ev : Expr → Except AsmError Int) (dst src : Resolved) : Except AsmError BinForm :=
  match dst, src with
  | .value _ named, _ => .error (notWritable named)
  | .codeLabel _, _ => .error .labelShouldBeWritable
  | _, .codeLabel _ => .error .labelShouldBeANumber
  | .mem _ _, .mem _ _ => .error .doubleMemoryAccess
  | .reg (.byte d), .reg (.byte s) => .ok (.regReg (.byte d s))
  | .reg (.word d), .reg (.word s) => .ok (.regReg (.word d s))
  | .reg _, .reg _ => .error .sizeMismatch
  | .reg d, .mem w t =>
    if w.getD d.size ≠ d.size then .error .sizeMismatch
    else match t with
      | .bx => .ok (.regBx d)
      | .direct e => do return .regMem d (← wordValue (← ev e))
  | .mem w t, .reg r =>
    if w.getD r.size ≠ r.size then .error .sizeMismatch
    else match t with
      | .bx => .ok (.bxReg r)
      | .direct e => do return .memReg (← wordValue (← ev e)) r
  | .reg (.byte d), .value e _ => do return .regImm (.byte d (← byteValue (← ev e)))
  | .reg (.word d), .value e _ => do return .regImm (.word d (← wordValue (← ev e)))
  | .mem none _, .value _ _ => .error .unknownSize
  | .mem (some w) .bx, .value e _ => do return .bxImm (← immValue w (← ev e))
  | .mem (some w) (.direct a), .value e _ => do
    return .memImm (← wordValue (← ev a)) (← immValue w (← ev e))

/-- A Unary instruction's form (R154, D42). -/
def unaryForm (ev : Expr → Except AsmError Int) : Resolved → Except AsmError UnForm
  | .reg r => .ok (.reg r)
  | .mem none _ => .error .unknownSize
  | .mem (some w) .bx => .ok (.bx w)
  | .mem (some w) (.direct e) => do return .mem w (← wordValue (← ev e))
  | .value _ named => .error (notWritable named)
  | .codeLabel _ => .error .labelShouldBeWritable

/-- The number of an INT operand or a port immediate (R154, R157). -/
def numberOperand (ev : Expr → Except AsmError Int) : AsmOperand → Except AsmError Byte
  | .reg _ => .error .expectsImmediate
  | .value e => do numberValue (← ev e)
  | _ => .error .illegalOperands

/-- `INT n` by its number (R138, R245). -/
def intInstr (n : Byte) : Instr :=
  if n = 0#8 then .int0
  else if n = 3#8 then .int3
  else if n = 6#8 then .int6
  else if n = 7#8 then .int7
  else .intN n

/-- A Jump instruction (R137). -/
def JumpOp.instr (j : JumpOp) (addr : Word) : Instr :=
  match j with
  | .jmp => .jmp addr
  | .call => .call addr
  | .jz => .jz addr
  | .jnz => .jnz addr
  | .jc => .jc addr
  | .jnc => .jnc addr
  | .js => .js addr
  | .jns => .jns addr
  | .jo => .jo addr
  | .jno => .jno addr

/-- A Zeroary instruction (R135). -/
def Zeroary.instr : Zeroary → Instr
  | .nop => .nop
  | .hlt => .hlt
  | .cli => .cli
  | .sti => .sti
  | .pushf => .pushf
  | .popf => .popf
  | .ret => .ret
  | .iret => .iret

/-- The size of an IN or OUT accumulator (R154). -/
def accumulatorSize : AsmOperand → Except AsmError Size
  | .reg (.byte .al) => .ok .byte
  | .reg (.word .ax) => .ok .word
  | _ => .error .illegalOperands

/-- The instruction of a code statement, `ev` giving the values of expressions (R154). -/
def translate (syms : Symbols) (ev : Expr → Except AsmError Int) (m : AsmMnemonic) (operands : List AsmOperand) :
    Except AsmError Instr :=
  match m, operands with
  | .zeroary z, [] => .ok z.instr
  | .push, [.reg (.word r)] => .ok (.push r)
  | .pop, [.reg (.word r)] => .ok (.pop r)
  | .unary op, [o] => do return .ofUn op (← unaryForm ev (← resolveOperand syms o))
  | .binary op, [d, s] => do
    return .ofBin op (← binaryForm ev (← resolveOperand syms d) (← resolveOperand syms s))
  | .jump j, [o] => do
    match ← resolveOperand syms o with
    | .codeLabel l => return j.instr (← wordValue (← ev (.offset l)))
    | _ => .error .illegalOperands
  | .int, [o] => do return intInstr (← numberOperand ev o)
  | .input, [a, .reg (.word .dx)] => do return .inDx (← accumulatorSize a)
  | .input, [a, o] => do return .inPort (← accumulatorSize a) (← numberOperand ev o)
  | .output, [.reg (.word .dx), a] => do return .outDx (← accumulatorSize a)
  | .output, [o, a] => do return .outPort (← accumulatorSize a) (← numberOperand ev o)
  | _, _ => .error .illegalOperands

/-- The bytes of a data value; `none` is a reserved byte (R151). -/
def dataBytes (ev : Expr → Except AsmError Int) (w : Size) : DataValue → Except AsmError (List (Option Byte))
  | .expr e => do return (← immValue w (← ev e)).bytes.map some
  | .reserved => .ok (List.replicate w.bytes none)
  | .text bytes =>
    match w with
    | .byte => .ok (bytes.map some)
    | .word => .error .illegalOperands

/-- The bytes of every value of a directive. -/
def dataListBytes (ev : Expr → Except AsmError Int) (w : Size) : List DataValue → Except AsmError (List (Option Byte))
  | [] => .ok []
  | v :: vs => do return (← dataBytes ev w v) ++ (← dataListBytes ev w vs)

/-! ### The two passes (R156) -/

/-- The bytes of a statement; an `EQU` has none, but its expression is evaluated (R152, R156). -/
def stmtBytes (enc : InstrEncoding) (syms : Symbols) (ev : Expr → Except AsmError Int) :
    Stmt → Except AsmError (List (Option Byte))
  | .data _ w values => dataListBytes ev w values
  | .code _ m operands => do return (enc.encode (← translate syms ev m operands)).map some
  | .equ _ e => (ev e).map fun _ => []
  | .org _ => .ok []
  | .finish => .ok []

/-- A statement's length: it does not depend on the values of expressions, so pass 1 takes them all as 0. -/
def stmtLength (enc : InstrEncoding) (syms : Symbols) (st : Stmt) : Except AsmError Nat :=
  (stmtBytes enc syms (fun _ => .ok 0) st).map List.length

/-- The label a statement declares, with its kind. -/
def stmtLabel : Stmt → Option (Name × LabelKind)
  | .data (some l) w _ => some (l, .data w)
  | .code (some l) _ _ => some (l, .code)
  | .equ l e => some (l, .equ e)
  | _ => none

/-- Every label with its kind, before any address is known. -/
def labelKinds (src : List Stmt) : Symbols := (src.filterMap stmtLabel).map fun (l, k) => (l, k, 0)

/-- No name is declared twice (R151). -/
def distinctNames : Symbols → Bool
  | [] => true
  | (l, _) :: rest => (rest.lookup l).isNone && distinctNames rest

/-- `END` only ends the source (R151). -/
def endIsLast : List Stmt → Bool
  | [] => true
  | [_] => true
  | st :: rest => decide (st ≠ .finish) && endIsLast rest

/-- Where each statement starts: the pointer walks the source, and every statement but `ORG` needs it set. -/
def place (enc : InstrEncoding) (syms : Symbols) :
    Option Nat → List Stmt → Except AsmError (List (Nat × Nat × Stmt))
  | _, [] => .ok []
  | _, .org n :: rest => place enc syms (some n.toNat) rest
  | none, _ :: _ => .error .missingOrg
  | some p, st :: rest => do
    let len ← stmtLength enc syms st
    if len ≠ 0 ∧ Config.memSize < p + len then .error .instructionOutOfRange
    else return (p, len, st) :: (← place enc syms (some (p + len)) rest)

/-- No two ranges overlap. -/
def disjointRanges : List (Nat × Nat × Stmt) → Bool
  | [] => true
  | (p, len, _) :: rest => rest.all (fun (q, n, _) => len = 0 || n = 0 || p + len ≤ q || q + n ≤ p) && disjointRanges rest

/-- The labels with the pointers they record. -/
def placedLabels (placed : List (Nat × Nat × Stmt)) : Symbols :=
  placed.filterMap fun (p, _, st) => (stmtLabel st).map fun (l, k) => (l, k, p)

/-- The image cells of the bytes from `p` on; a reserved byte is in no image (R151, R301). -/
def imageCells : Nat → List (Option Byte) → Image
  | _, [] => []
  | p, none :: rest => imageCells (p + 1) rest
  | p, some b :: rest => (Fin.ofNat 0x4000 p, b) :: imageCells (p + 1) rest

/-- A code statement. -/
def Stmt.isCode : Stmt → Bool
  | .code _ _ _ => true
  | _ => false

/-- Pass 2: every statement's expressions evaluated and its bytes put into the code image or the data image, in source
order.  DESIGN CHOICE (log 17): so the first statement of the source with an error is the one reported, code or data. -/
def emit (enc : InstrEncoding) (syms : Symbols) : List (Nat × Nat × Stmt) → Except AsmError (Image × Image)
  | [] => .ok ([], [])
  | (p, _, st) :: rest => do
    let cells := imageCells p (← stmtBytes enc syms (exprValue syms) st)
    let (code, data) ← emit enc syms rest
    return if st.isCode then (cells ++ code, data) else (code, cells ++ data)

/-- The code image and the data image of a source under an encoding, or its first error (R156, R159).  DESIGN CHOICE
(log 17): which error comes first where a source has several. -/
def assembleWith (enc : InstrEncoding) (src : List Stmt) : Except AsmError (Image × Image) :=
  if !endIsLast src then .error .endMustBeLast
  else if !distinctNames (labelKinds src) then .error .duplicatedLabel
  else do
    let placed ← place enc (labelKinds src) none src
    if !disjointRanges placed then .error .occupiedAddress
    else emit enc (placedLabels placed) placed

/-- `assembleWith` for the encoding of 30_encoding. -/
def assemble (src : List Stmt) : Except AsmError (Image × Image) := assembleWith .standard src

end Sys2Proof.Machine
end

