-- ==== Sys2Proof/Machine/AssemblyText.lean ====
section
/-! DEFINITION. The assembler's text level (30_encoding R150 to R153): characters to tokens, tokens to expressions,
operands and statements.  Names and keywords are upper-cased before they are compared. -/

namespace Sys2Proof.Machine

/-! ### Tokens (R150, R8) -/

/-- A token of one line. -/
inductive Token where
  | number (n : Nat)
  /-- An identifier or a reserved word, upper-cased. -/
  | word (w : Name)
  /-- A string literal, as its characters' codes. -/
  | text (bytes : List Byte)
  /-- One of `, : [ ] ( ) + - * ?`. -/
  | mark (c : Char)
  deriving DecidableEq, Repr

/-- `0`..`9`. -/
def isDigit (c : Char) : Bool := decide ('0'.toNat ≤ c.toNat) && decide (c.toNat ≤ '9'.toNat)

/-- The upper-case form of an ASCII letter; any other character is left alone (R150). -/
def upper (c : Char) : Char :=
  if 'a'.toNat ≤ c.toNat && c.toNat ≤ 'z'.toNat then Char.ofNat (c.toNat - 32) else c

/-- `A`..`Z`, `a`..`z`, `_`. -/
def isNameStart (c : Char) : Bool :=
  c == '_' || (decide ('A'.toNat ≤ (upper c).toNat) && decide ((upper c).toNat ≤ 'Z'.toNat))

/-- A character of an identifier after its first. -/
def isNameChar (c : Char) : Bool := isNameStart c || isDigit c

/-- The value of a digit in a base up to 16. -/
def digitValue (base : Nat) (c : Char) : Option Nat :=
  let v := if isDigit c then c.toNat - '0'.toNat else (upper c).toNat - 'A'.toNat + 10
  if (isDigit c || isNameStart c) && c != '_' && v < base then some v else none

/-- The value of digits, most significant first. -/
def digitsValue (base : Nat) : List Char → Nat → Option Nat
  | [], acc => some acc
  | c :: cs, acc =>
    match digitValue base c with
    | some v => digitsValue base cs (acc * base + v)
    | none => none

/-- A number literal: suffix `h`, suffix `b` or decimal (R8, R150). -/
def numberValueOf (cs : List Char) : Option Nat :=
  match cs.reverse with
  | [] => none
  | last :: body =>
    if upper last = 'H' then (if body = [] then none else digitsValue 16 body.reverse 0)
    else if upper last = 'B' then (if body = [] then none else digitsValue 2 body.reverse 0)
    else digitsValue 10 cs 0

/-- The characters that are tokens by themselves. -/
def marks : List Char := [',', ':', '[', ']', '(', ')', '+', '-', '*', '?']

/-- A string literal's characters up to the closing quote, and what follows it (R150, R151). -/
def lexString : List Char → Except AsmError (List Byte × List Char)
  | [] => .error .unterminatedString
  | c :: cs =>
    if c = '"' then .ok ([], cs)
    else if 127 < c.toNat then .error .unexpectedCharacter
    else do
      let (bytes, rest) ← lexString cs
      return (BitVec.ofNat 8 c.toNat :: bytes, rest)

/-- The tokens of a line; each round reads at least one character, so the line's length is fuel enough. -/
def lexLine : Nat → List Char → Except AsmError (List Token)
  | _, [] => .ok []
  | 0, _ => .ok []
  | fuel + 1, c :: cs =>
    if c = ';' then .ok []
    else if c = ' ' || c = '\t' || c = '\r' then lexLine fuel cs
    else if c = '"' then do
      let (bytes, rest) ← lexString cs
      return .text bytes :: (← lexLine fuel rest)
    else if isDigit c then
      match numberValueOf (c :: cs.takeWhile isNameChar) with
      | some n => do return .number n :: (← lexLine fuel (cs.dropWhile isNameChar))
      | none => .error .unexpectedCharacter
    else if isNameStart c then do
      return .word ((c :: cs.takeWhile isNameChar).map upper) :: (← lexLine fuel (cs.dropWhile isNameChar))
    else if marks.contains c then do return .mark c :: (← lexLine fuel cs)
    else .error .unexpectedCharacter

/-! ### Reserved words (R150, R154) -/

/-- The register operands. -/
def registerWords : List (Name × Reg) := [
    (['A', 'L'], .byte .al),
    (['B', 'L'], .byte .bl),
    (['C', 'L'], .byte .cl),
    (['D', 'L'], .byte .dl),
    (['A', 'H'], .byte .ah),
    (['B', 'H'], .byte .bh),
    (['C', 'H'], .byte .ch),
    (['D', 'H'], .byte .dh),
    (['A', 'X'], .word .ax),
    (['B', 'X'], .word .bx),
    (['C', 'X'], .word .cx),
    (['D', 'X'], .word .dx),
    (['S', 'P'], .word .sp)]

/-- The mnemonics. -/
def mnemonicWords : List (Name × AsmMnemonic) := [
    (['N', 'O', 'P'], .zeroary .nop),
    (['H', 'L', 'T'], .zeroary .hlt),
    (['C', 'L', 'I'], .zeroary .cli),
    (['S', 'T', 'I'], .zeroary .sti),
    (['P', 'U', 'S', 'H', 'F'], .zeroary .pushf),
    (['P', 'O', 'P', 'F'], .zeroary .popf),
    (['R', 'E', 'T'], .zeroary .ret),
    (['I', 'R', 'E', 'T'], .zeroary .iret),
    (['P', 'U', 'S', 'H'], .push),
    (['P', 'O', 'P'], .pop),
    (['I', 'N', 'C'], .unary .inc),
    (['D', 'E', 'C'], .unary .dec),
    (['N', 'E', 'G'], .unary .neg),
    (['N', 'O', 'T'], .unary .not),
    (['M', 'O', 'V'], .binary .mov),
    (['A', 'D', 'D'], .binary .add),
    (['A', 'D', 'C'], .binary .adc),
    (['S', 'U', 'B'], .binary .sub),
    (['S', 'B', 'B'], .binary .sbb),
    (['C', 'M', 'P'], .binary .cmp),
    (['A', 'N', 'D'], .binary .and),
    (['O', 'R'], .binary .or),
    (['X', 'O', 'R'], .binary .xor),
    (['J', 'M', 'P'], .jump .jmp),
    (['C', 'A', 'L', 'L'], .jump .call),
    (['J', 'Z'], .jump .jz),
    (['J', 'N', 'Z'], .jump .jnz),
    (['J', 'C'], .jump .jc),
    (['J', 'N', 'C'], .jump .jnc),
    (['J', 'S'], .jump .js),
    (['J', 'N', 'S'], .jump .jns),
    (['J', 'O'], .jump .jo),
    (['J', 'N', 'O'], .jump .jno),
    (['I', 'N', 'T'], .int), (['I', 'N'], .input), (['O', 'U', 'T'], .output)]

/-- `ORG`. -/
def orgWord : Name := ['O', 'R', 'G']

/-- `END`. -/
def endWord : Name := ['E', 'N', 'D']

/-- `DB`. -/
def dbWord : Name := ['D', 'B']

/-- `DW`. -/
def dwWord : Name := ['D', 'W']

/-- `EQU`. -/
def equWord : Name := ['E', 'Q', 'U']

/-- `OFFSET`. -/
def offsetWord : Name := ['O', 'F', 'F', 'S', 'E', 'T']

/-- `BYTE`. -/
def byteWord : Name := ['B', 'Y', 'T', 'E']

/-- `WORD`. -/
def wordWord : Name := ['W', 'O', 'R', 'D']

/-- `PTR`. -/
def ptrWord : Name := ['P', 'T', 'R']

/-- The words no label may be.  `IP` is a register token that no operand may be (R35). -/
def reservedWords : List Name :=
  registerWords.map Prod.fst ++ mnemonicWords.map Prod.fst ++
    [orgWord, endWord, dbWord, dwWord, equWord, offsetWord, byteWord, wordWord, ptrWord, ['I', 'P']]

/-- The word is an identifier. -/
def isIdentifier (w : Name) : Bool := !reservedWords.contains w

/-! ### Number expressions (R152) -/

/-- The productions of R152's grammar; a rest continues what was read so far. -/
inductive ExprPart where
  | term
  | termRest (soFar : Expr)
  | factor
  | factorRest (soFar : Expr)
  | unary

/-- An expression and the tokens after it, with fuel for the depth of the productions.  Parentheses leave no trace in the
expression, so a label alone in parentheses is the label (log 17). -/
def parseExpr : Nat → ExprPart → List Token → Except AsmError (Expr × List Token)
  | 0, _, _ => .error (.expected "expression")
  | fuel + 1, .term, ts => do
    let (e, ts) ← parseExpr fuel .factor ts
    parseExpr fuel (.termRest e) ts
  | fuel + 1, .termRest e, ts =>
    match ts with
    | .mark '+' :: ts => do
      let (e2, ts) ← parseExpr fuel .factor ts
      parseExpr fuel (.termRest (.add e e2)) ts
    | .mark '-' :: ts => do
      let (e2, ts) ← parseExpr fuel .factor ts
      parseExpr fuel (.termRest (.sub e e2)) ts
    | _ => .ok (e, ts)
  | fuel + 1, .factor, ts => do
    let (e, ts) ← parseExpr fuel .unary ts
    parseExpr fuel (.factorRest e) ts
  | fuel + 1, .factorRest e, ts =>
    match ts with
    | .mark '*' :: ts => do
      let (e2, ts) ← parseExpr fuel .unary ts
      parseExpr fuel (.factorRest (.mul e e2)) ts
    | _ => .ok (e, ts)
  | fuel + 1, .unary, ts =>
    match ts with
    | .mark '+' :: ts => do
      let (e, ts) ← parseExpr fuel .unary ts
      return (.plus e, ts)
    | .mark '-' :: ts => do
      let (e, ts) ← parseExpr fuel .unary ts
      return (.minus e, ts)
    | .number n :: ts => .ok (.num n, ts)
    | .mark '(' :: ts => do
      let (e, ts) ← parseExpr fuel .term ts
      match ts with
      | .mark ')' :: ts => return (e, ts)
      | _ => .error (.expected ")")
    | .word w :: ts =>
      if w = offsetWord then
        match ts with
        | .word l :: ts => if isIdentifier l then .ok (.offset l, ts) else .error (.expected "identifier")
        | _ => .error (.expected "identifier")
      else if isIdentifier w then .ok (.name w, ts)
      else .error (.expected "expression")
    | _ => .error (.expected "expression")

/-- A whole expression: at most four productions are open for each token, and some at the end. -/
def parseWhole (ts : List Token) : Except AsmError (Expr × List Token) := parseExpr (4 * ts.length + 8) .term ts

/-! ### Operands (R153) -/

/-- `[BX]` or `[expr]` after its opening bracket. -/
def parseBracket (w : Option Size) (ts : List Token) : Except AsmError (AsmOperand × List Token) :=
  match ts with
  | .word ['B', 'X'] :: .mark ']' :: ts => .ok (.bx w, ts)
  | _ => do
    let (e, ts) ← parseWhole ts
    match ts with
    | .mark ']' :: ts => return (.direct w e, ts)
    | _ => .error (.expected "]")

/-- One operand. -/
def parseOperand (ts : List Token) : Except AsmError (AsmOperand × List Token) :=
  match ts with
  | .mark '[' :: ts => parseBracket none ts
  | .word size :: .word p :: .mark '[' :: rest =>
    if p = ptrWord && size = byteWord then parseBracket (some .byte) rest
    else if p = ptrWord && size = wordWord then parseBracket (some .word) rest
    else (parseWhole ts).map fun (e, ts) => (.value e, ts)
  | .word w :: rest =>
    match registerWords.lookup w with
    | some r => .ok (.reg r, rest)
    | none => (parseWhole ts).map fun (e, ts) => (.value e, ts)
  | _ => (parseWhole ts).map fun (e, ts) => (.value e, ts)

/-- Items separated by commas up to the line's end; each round reads a token. -/
def parseList {α : Type} (item : List Token → Except AsmError (α × List Token)) :
    Nat → List Token → Except AsmError (List α)
  | 0, _ => .error (.expected "end-of-line")
  | fuel + 1, ts => do
    let (a, ts) ← item ts
    match ts with
    | [] => return [a]
    | .mark ',' :: ts => return a :: (← parseList item fuel ts)
    | _ => .error (.expected "end-of-line")

/-- A value of `DB` or `DW` (R151). -/
def parseValue (ts : List Token) : Except AsmError (DataValue × List Token) :=
  match ts with
  | .mark '?' :: ts => .ok (.reserved, ts)
  | .text bytes :: ts => .ok (.text bytes, ts)
  | _ => (parseWhole ts).map fun (e, ts) => (.expr e, ts)

/-! ### Lines (R151) -/

/-- A directive or an instruction, after its label. -/
def parseBody (label : Option Name) (ts : List Token) : Except AsmError Stmt :=
  match ts with
  | .word w :: rest =>
    if w = dbWord then (parseList parseValue (rest.length + 1) rest).map (.data label .byte)
    else if w = dwWord then (parseList parseValue (rest.length + 1) rest).map (.data label .word)
    else if w = equWord then
      match label with
      | none => .error (.expected "label")
      | some l => do
        let (e, ts) ← parseWhole rest
        if ts = [] then return .equ l e else .error (.expected "end-of-line")
    else
      match mnemonicWords.lookup w with
      | none => .error (.expected "instruction")
      | some m => if rest = [] then .ok (.code label m []) else (parseList parseOperand (rest.length + 1) rest).map (.code label m)
  | _ => .error (.expected "instruction")

/-- A line that holds a token. -/
def parseLine (ts : List Token) : Except AsmError Stmt :=
  match ts with
  | [.word w, .number n] =>
    if w = orgWord then (if n < 65536 then .ok (.org (BitVec.ofNat 16 n)) else .error .valueOutOfRange)
    else parseBody none ts
  | [.word w] => if w = endWord then .ok .finish else parseBody none ts
  | .word l :: .mark ':' :: rest => if isIdentifier l then parseBody (some l) rest else .error (.expected "identifier")
  | .word l :: .word w :: rest =>
    if w = equWord && isIdentifier l then parseBody (some l) (.word w :: rest) else parseBody none ts
  | _ => parseBody none ts

/-- The lines of a text. -/
def splitLines : List Char → List (List Char)
  | [] => [[]]
  | c :: cs =>
    match splitLines cs with
    | [] => [[c]]
    | l :: ls => if c = '\n' then [] :: l :: ls else (c :: l) :: ls

/-- The statements of a text's lines; a line without a token is none (R151). -/
def parseLines : List (List Char) → Except AsmError (List Stmt)
  | [] => .ok []
  | l :: ls => do
    let ts ← lexLine l.length l
    if ts = [] then parseLines ls
    else
      let st ← parseLine ts
      return st :: (← parseLines ls)

/-- The code image and the data image of a source text under an encoding, or its first error (R150 to R159). -/
def assembleTextWith (enc : InstrEncoding) (source : List Char) : Except AsmError (Image × Image) := do
  assembleWith enc (← parseLines (splitLines source))

/-- `assembleTextWith` for the encoding of 30_encoding. -/
def assembleText (source : List Char) : Except AsmError (Image × Image) := assembleTextWith .standard source

end Sys2Proof.Machine
end

