-- ==== Sys2Proof/Tests/Slice0.lean ====
section
/-! SUPPORT. The model's own tests: the ill-formed terms, the decoding of a word for every constructor, one-step tests
whose results are rows of 95_test_vectors, and a witness for the hypotheses of every obligation that has any. -/

namespace Sys2Proof.Tests

open Machine

/-! ### Well-formedness: the one check, and each number it refuses (R245) -/

theorem test_int_zero_ill_formed : ¬ WellFormed (.intN 0#8) := by decide

theorem test_int_three_ill_formed : ¬ WellFormed (.intN 3#8) := by decide

theorem test_int_six_ill_formed : ¬ WellFormed (.intN 6#8) := by decide

theorem test_int_seven_ill_formed : ¬ WellFormed (.intN 7#8) := by decide

theorem test_int_others_well_formed : [1#8, 2#8, 4#8, 5#8, 8#8, 255#8].all (fun n => (Instr.intN n).wf) = true := by
  decide

/-! ### Decoding: each word is composed from its row's "encoding" in the opcode table and R126's register indices -/

/-- Each word decodes to its instruction, and no byte is left. -/
def reads (l : List (List Byte × Instr)) : Bool := l.all fun p => decode p.1 == .ok p.2 []

theorem test_decode_mov : reads [
    ([0x00#8, 0x28#8], .movRegReg (.byte .bh .al)),
    ([0x05#8, 0x60#8], .movRegBx (.word .sp)),
    ([0x01#8, 0xB8#8, 0x36#8, 0x14#8], .movRegMem (.byte .dh) 0x1436#16),
    ([0x06#8, 0x48#8], .movBxReg (.word .bx)),
    ([0x02#8, 0x88#8, 0x38#8, 0x16#8], .movMemReg 0x1638#16 (.byte .bl)),
    ([0x07#8, 0x20#8, 0x05#8, 0xBE#8], .movRegImm (.word .sp 0xBE05#16)),
    ([0x03#8, 0x40#8, 0x86#8], .movBxImm (.byte 0x86#8)),
    ([0x07#8, 0x80#8, 0x3B#8, 0x19#8, 0x07#8, 0xBE#8], .movMemImm 0x193B#16 (.word 0xBE07#16))] = true := by decide

theorem test_decode_add : reads [
    ([0x08#8, 0x2A#8], .addRegReg (.byte .bh .cl)),
    ([0x0D#8, 0x60#8], .addRegBx (.word .sp)),
    ([0x09#8, 0xB8#8, 0x3E#8, 0x1C#8], .addRegMem (.byte .dh) 0x1C3E#16),
    ([0x0E#8, 0x60#8], .addBxReg (.word .sp)),
    ([0x0A#8, 0x88#8, 0x40#8, 0x1E#8], .addMemReg 0x1E40#16 (.byte .bl)),
    ([0x0F#8, 0x20#8, 0x0D#8, 0xBE#8], .addRegImm (.word .sp 0xBE0D#16)),
    ([0x0B#8, 0x40#8, 0x8E#8], .addBxImm (.byte 0x8E#8)),
    ([0x0F#8, 0x80#8, 0x43#8, 0x21#8, 0x0F#8, 0xBE#8], .addMemImm 0x2143#16 (.word 0xBE0F#16))] = true := by decide

theorem test_decode_adc : reads [
    ([0x10#8, 0x2D#8], .adcRegReg (.byte .bh .bh)),
    ([0x15#8, 0x60#8], .adcRegBx (.word .sp)),
    ([0x11#8, 0xB8#8, 0x46#8, 0x24#8], .adcRegMem (.byte .dh) 0x2446#16),
    ([0x16#8, 0x50#8], .adcBxReg (.word .cx)),
    ([0x12#8, 0x88#8, 0x48#8, 0x26#8], .adcMemReg 0x2648#16 (.byte .bl)),
    ([0x17#8, 0x20#8, 0x15#8, 0xBE#8], .adcRegImm (.word .sp 0xBE15#16)),
    ([0x13#8, 0x40#8, 0x96#8], .adcBxImm (.byte 0x96#8)),
    ([0x17#8, 0x80#8, 0x4B#8, 0x29#8, 0x17#8, 0xBE#8], .adcMemImm 0x294B#16 (.word 0xBE17#16))] = true := by decide

theorem test_decode_sub : reads [
    ([0x18#8, 0x28#8], .subRegReg (.byte .bh .al)),
    ([0x1D#8, 0x60#8], .subRegBx (.word .sp)),
    ([0x19#8, 0xB8#8, 0x4E#8, 0x2C#8], .subRegMem (.byte .dh) 0x2C4E#16),
    ([0x1E#8, 0x40#8], .subBxReg (.word .ax)),
    ([0x1A#8, 0x88#8, 0x50#8, 0x2E#8], .subMemReg 0x2E50#16 (.byte .bl)),
    ([0x1F#8, 0x20#8, 0x1D#8, 0xBE#8], .subRegImm (.word .sp 0xBE1D#16)),
    ([0x1B#8, 0x40#8, 0x9E#8], .subBxImm (.byte 0x9E#8)),
    ([0x1F#8, 0x80#8, 0x53#8, 0x31#8, 0x1F#8, 0xBE#8], .subMemImm 0x3153#16 (.word 0xBE1F#16))] = true := by decide

theorem test_decode_sbb : reads [
    ([0x20#8, 0x2A#8], .sbbRegReg (.byte .bh .cl)),
    ([0x25#8, 0x60#8], .sbbRegBx (.word .sp)),
    ([0x21#8, 0xB8#8, 0x56#8, 0x34#8], .sbbRegMem (.byte .dh) 0x3456#16),
    ([0x26#8, 0x58#8], .sbbBxReg (.word .dx)),
    ([0x22#8, 0x88#8, 0x58#8, 0x36#8], .sbbMemReg 0x3658#16 (.byte .bl)),
    ([0x27#8, 0x20#8, 0x25#8, 0xBE#8], .sbbRegImm (.word .sp 0xBE25#16)),
    ([0x23#8, 0x40#8, 0xA6#8], .sbbBxImm (.byte 0xA6#8)),
    ([0x27#8, 0x80#8, 0x5B#8, 0x39#8, 0x27#8, 0xBE#8], .sbbMemImm 0x395B#16 (.word 0xBE27#16))] = true := by decide

theorem test_decode_cmp : reads [
    ([0x28#8, 0x2D#8], .cmpRegReg (.byte .bh .bh)),
    ([0x2D#8, 0x60#8], .cmpRegBx (.word .sp)),
    ([0x29#8, 0xB8#8, 0x5E#8, 0x3C#8], .cmpRegMem (.byte .dh) 0x3C5E#16),
    ([0x2E#8, 0x48#8], .cmpBxReg (.word .bx)),
    ([0x2A#8, 0x88#8, 0x60#8, 0x3E#8], .cmpMemReg 0x3E60#16 (.byte .bl)),
    ([0x2F#8, 0x20#8, 0x2D#8, 0xBE#8], .cmpRegImm (.word .sp 0xBE2D#16)),
    ([0x2B#8, 0x40#8, 0xAE#8], .cmpBxImm (.byte 0xAE#8)),
    ([0x2F#8, 0x80#8, 0x63#8, 0x41#8, 0x2F#8, 0xBE#8], .cmpMemImm 0x4163#16 (.word 0xBE2F#16))] = true := by decide

theorem test_decode_and : reads [
    ([0x30#8, 0x28#8], .andRegReg (.byte .bh .al)),
    ([0x35#8, 0x60#8], .andRegBx (.word .sp)),
    ([0x31#8, 0xB8#8, 0x66#8, 0x44#8], .andRegMem (.byte .dh) 0x4466#16),
    ([0x36#8, 0x60#8], .andBxReg (.word .sp)),
    ([0x32#8, 0x88#8, 0x68#8, 0x46#8], .andMemReg 0x4668#16 (.byte .bl)),
    ([0x37#8, 0x20#8, 0x35#8, 0xBE#8], .andRegImm (.word .sp 0xBE35#16)),
    ([0x33#8, 0x40#8, 0xB6#8], .andBxImm (.byte 0xB6#8)),
    ([0x37#8, 0x80#8, 0x6B#8, 0x49#8, 0x37#8, 0xBE#8], .andMemImm 0x496B#16 (.word 0xBE37#16))] = true := by decide

theorem test_decode_or : reads [
    ([0x38#8, 0x2A#8], .orRegReg (.byte .bh .cl)),
    ([0x3D#8, 0x60#8], .orRegBx (.word .sp)),
    ([0x39#8, 0xB8#8, 0x6E#8, 0x4C#8], .orRegMem (.byte .dh) 0x4C6E#16),
    ([0x3E#8, 0x50#8], .orBxReg (.word .cx)),
    ([0x3A#8, 0x88#8, 0x70#8, 0x4E#8], .orMemReg 0x4E70#16 (.byte .bl)),
    ([0x3F#8, 0x20#8, 0x3D#8, 0xBE#8], .orRegImm (.word .sp 0xBE3D#16)),
    ([0x3B#8, 0x40#8, 0xBE#8], .orBxImm (.byte 0xBE#8)),
    ([0x3F#8, 0x80#8, 0x73#8, 0x51#8, 0x3F#8, 0xBE#8], .orMemImm 0x5173#16 (.word 0xBE3F#16))] = true := by decide

theorem test_decode_xor : reads [
    ([0x40#8, 0x2D#8], .xorRegReg (.byte .bh .bh)),
    ([0x45#8, 0x60#8], .xorRegBx (.word .sp)),
    ([0x41#8, 0xB8#8, 0x76#8, 0x54#8], .xorRegMem (.byte .dh) 0x5476#16),
    ([0x46#8, 0x40#8], .xorBxReg (.word .ax)),
    ([0x42#8, 0x88#8, 0x78#8, 0x56#8], .xorMemReg 0x5678#16 (.byte .bl)),
    ([0x47#8, 0x20#8, 0x45#8, 0xBE#8], .xorRegImm (.word .sp 0xBE45#16)),
    ([0x43#8, 0x40#8, 0xC6#8], .xorBxImm (.byte 0xC6#8)),
    ([0x47#8, 0x80#8, 0x7B#8, 0x59#8, 0x47#8, 0xBE#8], .xorMemImm 0x597B#16 (.word 0xBE47#16))] = true := by decide

theorem test_decode_unary : reads [
    ([0x84#8], .incReg (.byte .ah)),
    ([0x98#8], .incBx .word),
    ([0x89#8, 0x7E#8, 0x5C#8], .incMem .byte 0x5C7E#16),
    ([0xB1#8], .decReg (.word .bx)),
    ([0xA8#8], .decBx .byte),
    ([0xB9#8, 0x81#8, 0x5F#8], .decMem .word 0x5F81#16),
    ([0xC2#8], .negReg (.byte .cl)),
    ([0xD8#8], .negBx .word),
    ([0xC9#8, 0x84#8, 0x62#8], .negMem .byte 0x6284#16),
    ([0xF2#8], .notReg (.word .cx)),
    ([0xE8#8], .notBx .byte),
    ([0xF9#8, 0x87#8, 0x65#8], .notMem .word 0x6587#16)] = true := by decide

theorem test_decode_no_operand : reads [
    ([0x48#8], .nop),
    ([0x49#8], .hlt),
    ([0x4A#8], .cli),
    ([0x4B#8], .sti),
    ([0x4C#8], .pushf),
    ([0x4D#8], .popf),
    ([0x4E#8], .ret),
    ([0x4F#8], .iret)] = true := by decide

theorem test_decode_stack : reads [
    ([0x52#8], .push .cx),
    ([0x5B#8], .pop .dx)] = true := by decide

theorem test_decode_jump : reads [
    ([0x60#8, 0x92#8, 0x70#8], .jmp 0x7092#16),
    ([0x61#8, 0x93#8, 0x71#8], .call 0x7193#16),
    ([0x62#8, 0x94#8, 0x72#8], .jz 0x7294#16),
    ([0x63#8, 0x95#8, 0x73#8], .jnz 0x7395#16),
    ([0x64#8, 0x96#8, 0x74#8], .jc 0x7496#16),
    ([0x65#8, 0x97#8, 0x75#8], .jnc 0x7597#16),
    ([0x66#8, 0x98#8, 0x76#8], .js 0x7698#16),
    ([0x67#8, 0x99#8, 0x77#8], .jns 0x7799#16),
    ([0x68#8, 0x9A#8, 0x78#8], .jo 0x789A#16),
    ([0x69#8, 0x9B#8, 0x79#8], .jno 0x799B#16)] = true := by decide

theorem test_decode_int : reads [
    ([0x6A#8, 0xFF#8], .intN 0xFF#8),
    ([0x6A#8, 0x00#8], .int0),
    ([0x6A#8, 0x03#8], .int3),
    ([0x6A#8, 0x06#8], .int6),
    ([0x6A#8, 0x07#8], .int7)] = true := by decide

theorem test_decode_io : reads [
    ([0x72#8, 0x7D#8], .inPort .word 0x7D#8),
    ([0x71#8], .inDx .byte),
    ([0x76#8, 0x7F#8], .outPort .word 0x7F#8),
    ([0x75#8], .outDx .byte)] = true := by decide

/-- The register indices of R126: byte registers by `INC r8`, word registers by `INC r16`. -/
theorem test_decode_register_indices : reads [
    ([0x80#8], .incReg (.byte .al)), ([0x81#8], .incReg (.byte .bl)), ([0x82#8], .incReg (.byte .cl)),
    ([0x83#8], .incReg (.byte .dl)), ([0x84#8], .incReg (.byte .ah)), ([0x85#8], .incReg (.byte .bh)),
    ([0x86#8], .incReg (.byte .ch)), ([0x87#8], .incReg (.byte .dh)),
    ([0x90#8], .incReg (.word .ax)), ([0x91#8], .incReg (.word .bx)), ([0x92#8], .incReg (.word .cx)),
    ([0x93#8], .incReg (.word .dx)), ([0x94#8], .incReg (.word .sp))] = true := by decide

/-- The reserved rows of 95_test_vectors section 3. -/
theorem test_decode_reserved :
    ([[0x55#8], [0x5F#8], [0x6B#8], [0x7F#8], [0x8A#8], [0x95#8], [0x00#8, 0xC0#8], [0x00#8, 0x40#8], [0x04#8, 0x28#8],
      [0x01#8, 0x41#8], [0x03#8, 0x48#8, 0x00#8]].all fun bs =>
        match decode bs with
        | .illegal _ => true
        | _ => false) = true := by decide

/-- A table word is numbered with B0 as its top byte (log 14): `INT 3` is the 16-bit word 6A03h, `MOV [addr], imm` at
w = 1 with operand bytes 00h is the 16-bit word 0780h. -/
theorem test_table_word :
    decodeTableWord 16 0x6A03 = some .int3 ∧ decodeTableWord 16 0x0780 = some (.movMemImm 0x0000#16 (.word 0x0000#16)) ∧
    decodeTableWord 8 0x4F = some .iret := by decide

/-! ### One step (rows of 95_test_vectors sections 3 to 10) -/

/-- A byte of memory set. -/
def put (a : Nat) (v : Byte) (s : State) : State := { s with mem := s.mem.write a v }

/-- The reset state changed by `f`, with an instruction at `IP`. -/
def start (f : State → State) (bytes : List Byte) : State :=
  { f State.reset with mem := storeBytes (f State.reset).mem (f State.reset).ip bytes }

/-- What `f` sees of the next state. -/
def seen {α : Type} (s : State) (f : State → α) : Option α :=
  match step s with
  | .next t => some (f t)
  | _ => none

/-- The fault the step ends in. -/
def faultOf (s : State) : Option Fault :=
  match step s with
  | .fault r => some r
  | _ => none

/-- The flags CF ZF SF OF IF. -/
def fl (c z s o i : Bool) : Flags := ⟨c, z, s, o, i⟩

theorem test_step_runs_table_word : seen (State.reset.withFetchWord 8 0x4B) (·.flags) =
    some (fl false false false false true) := by decide

theorem test_mov_byte : seen (start (fun s => { s with dx := 0xAB00#16 }) [0x00#8, 0x27#8]) (fun t => (t.ax, t.ip)) =
    some (0xAB00#16, 0x2002#16) := by decide

theorem test_mov_word_memory : seen (start (fun s => { s with cx := 0xBEEF#16 }) [0x06#8, 0x90#8, 0x00#8, 0x10#8])
    (fun t => (t.mem.read 0x1000, t.mem.read 0x1001, t.ip)) = some (0xEF#8, 0xBE#8, 0x2004#16) := by decide

theorem test_add_carry : seen (start (fun s => { s with ax := 0x00FF#16 }) [0x0B#8, 0x00#8, 0x01#8])
    (fun t => (t.ax, t.flags)) = some (0x0000#16, fl true true false false false) := by decide

theorem test_add_overflow : seen (start (fun s => { s with ax := 0x007F#16 }) [0x0B#8, 0x00#8, 0x01#8])
    (fun t => (t.ax, t.flags)) = some (0x0080#16, fl false false true true false) := by decide

theorem test_adc_carry_in : seen (start (fun s => { s with dx := 0xFFFF#16, flags := fl true false false false false })
    [0x17#8, 0x18#8, 0x00#8, 0x00#8]) (fun t => (t.dx, t.flags)) =
    some (0x0000#16, fl true true false false false) := by decide

theorem test_sub_itself : seen (start (fun s => { s with cx := 0x1234#16, flags := fl true false true false false })
    [0x1C#8, 0x12#8]) (fun t => (t.cx, t.flags)) = some (0x0000#16, fl false true false false false) := by decide

theorem test_sbb_itself : seen (start (fun s => { s with flags := fl true false false false false }) [0x20#8, 0x00#8])
    (fun t => (t.ax, t.flags)) = some (0x00FF#16, fl true false true false false) := by decide

theorem test_cmp_memory : seen (start id [0x2B#8, 0x80#8, 0x00#8, 0x10#8, 0x00#8]) (fun t => (t.flags, t.ip)) =
    some (fl false true false false false, 0x2005#16) := by decide

theorem test_and : seen (start (fun s => { s with ax := 0x00F5#16, flags := fl true false false true false })
    [0x33#8, 0x00#8, 0x0F#8]) (fun t => (t.ax, t.flags)) = some (0x0005#16, fl false false false false false) := by
  decide

theorem test_or : seen (start (fun s => { s with ax := 0x8000#16, flags := fl true false false false false })
    [0x3C#8, 0x00#8]) (fun t => (t.ax, t.flags)) = some (0x8000#16, fl false false true false false) := by decide

theorem test_xor : seen (start (fun s => { s with ax := 0x1234#16 }) [0x44#8, 0x00#8]) (fun t => (t.ax, t.flags)) =
    some (0x0000#16, fl false true false false false) := by decide

theorem test_inc_memory : seen (start (fun s => put 0x1000 0xFF#8 { s with bx := 0x1000#16 }) [0x88#8])
    (fun t => (t.mem.read 0x1000, t.flags)) = some (0x00#8, fl false true false false false) := by decide

theorem test_dec_keeps_carry : seen (start (fun s => { s with cx := 1#16, flags := fl true false false false false })
    [0xB2#8]) (fun t => (t.cx, t.flags)) = some (0#16, fl true true false false false) := by decide

theorem test_neg_high_byte : seen (start (fun s => { s with dx := 0x0100#16 }) [0xC7#8]) (fun t => (t.dx, t.flags)) =
    some (0xFF00#16, fl true false true false false) := by decide

theorem test_not_sp : seen (start (fun s => { s with sp := 0x00FF#16 }) [0xF4#8]) (fun t => (t.sp, t.flags)) =
    some (0xFF00#16, fl false false true false false) := by decide

theorem test_push_sp : seen (start (fun s => { s with sp := 0x3000#16 }) [0x54#8])
    (fun t => (t.sp, t.mem.read 0x2FFE, t.mem.read 0x2FFF)) = some (0x2FFE#16, 0x00#8, 0x30#8) := by decide

theorem test_push_overflow : faultOf (start (fun s => { s with sp := 1#16 }) [0x50#8]) = some (.stackOverflow []) := by
  decide

theorem test_pop_sp : seen (start (fun s => put 0x3000 0x34#8 (put 0x3001 0x12#8 { s with sp := 0x3000#16 })) [0x5C#8])
    (·.sp) = some 0x1234#16 := by decide

theorem test_pop_underflow : faultOf (start id [0x59#8]) = some (.stackUnderflow []) := by decide

theorem test_pushf : seen (start (fun s => { s with flags := fl false false true true false }) [0x4C#8])
    (fun t => (t.mem.read 0x3FFE, t.mem.read 0x3FFF)) = some (0x80#8, 0x08#8) := by decide

theorem test_popf : seen (start (fun s => put 0x3FFE 0x80#8 (put 0x3FFF 0x0A#8 { s with sp := 0x3FFE#16 })) [0x4D#8])
    (fun t => (t.sp, t.flags)) = some (0x4000#16, fl false false true true true) := by decide

theorem test_in_dx_word : seen (start (fun s => { s with dx := 0x12FF#16, ax := 0x5555#16 }) [0x73#8]) (·.ax) =
    some 0#16 := by decide

theorem test_in_timer : seen (start (fun s => { s with timer := ⟨0x05#8, 0x10#8⟩ }) [0x72#8, 0x20#8]) (·.ax) =
    some 0x1005#16 := by decide

theorem test_out_port_a : seen (start (fun s => { s with ax := 0x00FF#16, pio := ⟨0#8, 0#8, 0x0F#8, 0#8⟩ })
    [0x74#8, 0x30#8]) (·.pio.pa) = some 0x0F#8 := by decide

theorem test_out_busy_dropped : seen (start (fun s => { s with ax := 0x0042#16, hs := ⟨0x41#8, 0x01#8⟩ })
    [0x74#8, 0x40#8]) (·.hs) = some ⟨0x41#8, 0x01#8⟩ := by decide

theorem test_jnz : seen (start id [0x63#8, 0x00#8, 0x21#8]) (·.ip) = some 0x2100#16 := by decide

theorem test_jo_not_taken : seen (start id [0x68#8, 0x00#8, 0x21#8]) (·.ip) = some 0x2003#16 := by decide

theorem test_call : seen (start id [0x61#8, 0x00#8, 0x30#8])
    (fun t => (t.ip, t.sp, t.mem.read 0x3FFE, t.mem.read 0x3FFF)) = some (0x3000#16, 0x3FFE#16, 0x03#8, 0x20#8) := by
  decide

theorem test_iret : seen (start (fun s => put 0x3FFC 0x05#8 (put 0x3FFD 0x20#8 (put 0x3FFF 0x02#8
    { s with sp := 0x3FFC#16 }))) [0x4F#8]) (fun t => (t.ip, t.sp, t.flags)) =
    some (0x2005#16, 0x4000#16, fl false false false false true) := by decide

/-- The pushes land in the vector that is then read. -/
theorem test_int_reads_vector_after_pushes : seen (start (fun s => put 0x21 0x30#8 { s with sp := 0x0024#16 })
    [0x6A#8, 0x08#8]) (fun t => (t.ip, t.sp)) = some (0x2002#16, 0x0020#16) := by decide

theorem test_int_zero_halts : seen (start id [0x6A#8, 0x00#8]) (·.status) = some .halted := by decide

theorem test_int_three_records : seen (start id [0x6A#8, 0x03#8]) (·.breakpoints) = some 1 := by decide

/-- The input byte lands in the saved FLAGS. -/
theorem test_int_six_input_in_flags : seen (start (fun s =>
    { s with bx := 0x3FFE#16, keyboard := [0xFF#8], flags := fl false true false false false }) [0x6A#8, 0x06#8])
    (fun t => (t.flags, t.status)) =
    some (fl true true true false false, .running) := by decide

theorem test_int_seven_prints : seen (start (fun s => put 0x1000 0x48#8 (put 0x1001 0x49#8
    { s with bx := 0x1000#16, ax := 2#16 })) [0x6A#8, 0x07#8]) (·.console) = some [0x48#8, 0x49#8] := by decide

theorem test_int_seven_runs_off : faultOf (start (fun s => put 0x3FFF 0x21#8
    { s with bx := 0x3FFF#16, sp := 0x3000#16, ax := 2#16 }) [0x6A#8, 0x07#8]) = some (.memoryOutOfRange [0x21#8]) := by
  decide

theorem test_fetch_runs_off : faultOf (start (fun s => { s with ip := 0x3FFE#16 }) [0x07#8, 0x00#8]) =
    some (.memoryOutOfRange []) := by decide

theorem test_reserved_instruction : faultOf (start id [0x6B#8]) = some (.invalidInstruction []) := by decide

/-- F10 at the boundary, line 0 to vector 8: the handler's NOP is what the step runs. -/
theorem test_f10_dispatch : seen (start (fun s => put 0x21 0x30#8 (put 0x3000 0x48#8
    { s with flags := fl false false false false true, hostEvents := [[.f10Press]],
             pic := { s.pic with vec := s.pic.vec.set 0 8#8 } })) [0x48#8])
    (fun t => (t.ip, t.sp, t.pic.isr, t.pic.irr, t.flags.interrupt)) =
    some (0x3001#16, 0x3FFC#16, 0x01#8, 0x00#8, false) := by decide

theorem test_eoi_dispatches_nothing : seen (start (fun s =>
    { s with flags := fl false false false false true, pic := { s.pic with irr := 0x01#8, isr := 0x04#8, eoi := 0x20#8 } }) [0x48#8])
    (fun t => (t.ip, t.pic.isr, t.pic.eoi, t.pic.irr)) = some (0x2001#16, 0x00#8, 0x00#8, 0x01#8) := by decide

theorem test_timer_no_match : seen (start (fun s => { s with timer := ⟨0xFF#8, 0x05#8⟩, hostEvents := [[.clockTick]] })
    [0x48#8]) (fun t => (t.timer.cont, t.pic.irr)) = some (0x00#8, 0x00#8) := by decide

theorem test_printer_done : seen (start (fun s => { s with hs := ⟨0x41#8, 0x01#8⟩, hostEvents := [[.printerDone]] })
    [0x48#8]) (fun t => (t.hs.state, t.console, t.pic.irr)) = some (0x00#8, [0x41#8], 0x00#8) := by decide

theorem test_switches_drive_inputs : seen (start (fun s =>
    { s with pio := ⟨0x50#8, 0#8, 0xF0#8, 0#8⟩, hostEvents := [[.pioDriveA 0xFF#8]] }) [0x48#8]) (·.pio.pa) =
    some 0x5F#8 := by decide

/-- R302: with nothing placed the first step runs `00 00`. -/
theorem test_empty_memory_runs : seen State.reset (fun t => (t.ip, t.ax)) = some (0x2002#16, 0#16) := by decide

/-! ### The assembler (R150 to R159) -/

/-- 95_test_vectors program P1. -/
theorem test_assemble_counter : (assemble [.org 0x1000#16, .data (some "X".toList) .byte [.expr (.num 0)],
    .org 0x2000#16, .code none (.binary .mov) [.reg (.byte .al), .value (.name "X".toList)],
    .code none (.unary .inc) [.reg (.byte .al)],
    .code none (.binary .mov) [.value (.name "X".toList), .reg (.byte .al)],
    .code none (.zeroary .hlt) [], .finish]).toOption.map (fun p => p.1.map Prod.snd) =
    some [0x01#8, 0x80#8, 0x00#8, 0x10#8, 0x80#8, 0x02#8, 0x80#8, 0x00#8, 0x10#8, 0x49#8] := by decide

/-- The text of one instruction, its bytes from R131 with w = 0, mm = 11, k = 01. -/
theorem test_assemble_text : (assembleText "ORG 2000h\nmov byte ptr [BX], 0FFh ; c\nEND".toList).toOption.map
    (fun p => p.1.map Prod.snd) = some [0x03#8, 0x40#8, 0xFF#8] := by decide

/-- 95_test_vectors section 1.2. -/
theorem test_assemble_past_memory : assemble [.org 0x3FFF#16, .data none .word [.expr (.num 0)], .finish] =
    .error .instructionOutOfRange := by rfl

/-- R152: cycles are errors, in an `EQU` that no statement uses too. -/
theorem test_assemble_unused_cycle : assemble [.org 0x2000#16, .equ "A".toList (.name "B".toList),
    .equ "B".toList (.name "A".toList), .finish] = .error .labelUndefinedChain := by rfl

/-- R156: pass 2 evaluates every expression, and the label a name has none of is not found. -/
theorem test_assemble_unused_undefined : assemble [.org 0x2000#16, .equ "A".toList (.plus (.name "X".toList)), .finish] =
    .error .labelNotFound := by rfl

/-- R93 with another base: `IN AL, 53h` with the PIC at 50h reads `ISR`. -/
theorem test_in_moved_pic : seen (start (fun s => { s with
    pic := { s.pic with isr := 0x04#8 }, params := { picBase := 0x50#8 } }) [0x70#8, 0x53#8]) (·.ax) =
    some 0x0004#16 := by decide

/-! ### Witnesses: a state and operands that meet the hypotheses of each obligation, at the ends of each clause's range -/

/-- The reset state with `SP` and `BX` set. -/
def regs (sp bx : Word) : State := { State.reset with sp := sp, bx := bx }

/-- The reset state with interrupts enabled, lines `irr` pending, `imr` masked, vector `id` for every line. -/
def pending (irr imr id : Byte) : State :=
  { State.reset with
    flags := fl false false false false true
    pic := { imr := imr, irr := irr, isr := 0#8, eoi := 0#8, vec := Vector.replicate 8 id } }

/-- The same before the host presses F10 at the boundary: line 0 is not pending yet. -/
def pressed (id : Byte) : State := { pending 0x00#8 0x00#8 id with hostEvents := [[.f10Press]] }

/-- The reset state in which `IoInvalid` holds at port 30h in both directions. -/
def portBarred : State :=
  { State.reset with
    params := { ioInvalid := [(.pioSwitchesLeds, 0x30#8, .read), (.pioSwitchesLeds, 0x30#8, .write)] } }

/-- An answer that is a next state. -/
def answers {α : Type} (o : Result α) : Bool :=
  match o with
  | .next _ => true
  | _ => false

theorem next_of_answers {α : Type} {o : Result α} (h : answers o = true) : ∃ t, o = .next t := by
  cases o with
  | next t => exact ⟨t, rfl⟩
  | fault r => cases h
  | refused r => cases h

/-- A state with memory, a line in service and a busy printer, and its next instruction (`INT 7` printing one byte). -/
def busyState : State :=
  start (fun s => put 0x3FFF 0x21#8 { s with
    ax := 1#16, bx := 0x3FFF#16, sp := 0x3000#16, pic := { s.pic with isr := 0x80#8 }, hs := ⟨0x41#8, 0x83#8⟩ })
    [0x6A#8, 0x07#8]

theorem witness_StepKeepsInvariant : Invariant busyState ∧ ∃ t, step busyState = .next t :=
  ⟨⟨by decide, .inr ⟨7, by decide⟩, by decide⟩, next_of_answers (by decide)⟩

/-- Both images and the last byte; overlapping patches, the last vector; the canonical memory of an earlier run. -/
theorem witness_LoadedMemoryHoldsImages :
    ∃ (code data : Image) (previous : Memory) (patches : Patches), previous.wf = true ∧ previous ≠ [] ∧
      (code.map Prod.fst).Nodup ∧ (data.map Prod.fst).Nodup ∧ (0x3FFF, 1#8) ∈ code ∧ (0x3FFF, 3#8) ∈ data ∧
      (0, 2#8) ∈ data ∧ (0 : Fin 0x4000) ∉ code.map Prod.fst ∧ (1 : Fin 0x4000) ∉ code.map Prod.fst ∧
      (1 : Fin 0x4000) ∉ data.map Prod.fst ∧ patchedByte patches 0 = some 0x00#8 ∧ patchedByte patches 1021 = some 0x12#8 ∧
      patchedByte patches 1022 = none ∧ initialByte (.random [7#8]) previous 0 = 7#8 ∧
      initialByte .unchanged previous 0x3FFF = 5#8 :=
  ⟨[(0x3FFF, 1#8)], [(0x3FFF, 3#8), (0, 2#8)], [(0x3FFF, 5#8)],
    [(0#8, 0x3000#16), (255#8, 0x1234#16), (0#8, 0x4000#16)], by decide⟩

theorem witness_DecodeOfEncode : WellFormed (.intN 255#8) ∧ WellFormed (.movMemImm 0xFFFF#16 (.word 0xFFFF#16)) := by
  decide

theorem witness_EncodeOfDecode :
    decode [0x07#8, 0x80#8, 0xFF#8, 0xFF#8, 0x00#8, 0x80#8, 0x49#8] =
      .ok (.movMemImm 0xFFFF#16 (.word 0x8000#16)) [0x49#8] := by decide

theorem witness_IllegalEncodingsRejected :
    reservedFirst 0x55 = true ∧ reservedFirst 0x6F = true ∧ reservedFirst 0xFF = true ∧
    legalBin 0x00 0x40 = false ∧ legalBin 0x47 0x81 = false ∧ legalBin 0x47 0x80 = true ∧
    decode [0x78#8, 0x00#8] = .illegal .reservedFirstByte := by decide

theorem witness_IllegalBytesFault_first :
    Running (start id [0x6B#8]) ∧ boundary (start id [0x6B#8]) = .next (start id [0x6B#8]) ∧
    ByteIn (start id [0x6B#8]).ip ∧
    reservedFirst ((start id [0x6B#8]).byteAt (start id [0x6B#8]).ip).toNat = true :=
  ⟨rfl, rfl, by decide⟩

/-- Two illegal bytes at the top of memory. -/
def illegalAtTop : State := start (fun s => { s with ip := 0x3FFE#16 }) [0x47#8, 0x81#8]

theorem witness_IllegalBytesFault_second :
    Running illegalAtTop ∧ boundary illegalAtTop = .next illegalAtTop ∧ ByteIn illegalAtTop.ip ∧
    (illegalAtTop.byteAt illegalAtTop.ip).toNat ≤ 0x47 ∧ WordIn illegalAtTop.ip ∧
    legalBin (illegalAtTop.byteAt illegalAtTop.ip).toNat
      (illegalAtTop.mem.read (illegalAtTop.ip.toNat + 1)).toNat = false :=
  ⟨rfl, rfl, by decide⟩

/-- `MOV AX, imm` at the last two bytes. -/
def cutAtTop : State := start (fun s => { s with ip := 0x3FFE#16 }) [0x07#8, 0x00#8]

theorem witness_FetchPastMemoryFaults :
    (Running { State.reset with ip := 0x4000#16 } ∧
      boundary { State.reset with ip := 0x4000#16 } = .next { State.reset with ip := 0x4000#16 } ∧
      0x4000 ≤ ({ State.reset with ip := 0x4000#16 } : State).ip.toNat) ∧
    Running cutAtTop ∧ boundary cutAtTop = .next cutAtTop ∧
    WellFormed (.movRegImm (.word .ax 0x1234#16)) ∧ cutAtTop.ip.toNat ≤ 0x3FFF ∧
    0x4000 < cutAtTop.ip.toNat + (encode (.movRegImm (.word .ax 0x1234#16))).length ∧
    ∀ k : Nat, cutAtTop.ip.toNat + k ≤ 0x3FFF →
      (encode (.movRegImm (.word .ax 0x1234#16)))[k]? = some (cutAtTop.mem.read (cutAtTop.ip.toNat + k)) := by
  refine ⟨⟨rfl, rfl, by decide⟩, rfl, rfl, by decide, by decide, by decide, fun k hk => ?_⟩
  have h : cutAtTop.ip.toNat = 0x3FFE := by decide
  have : k = 0 ∨ k = 1 := by omega
  rcases this with rfl | rfl <;> decide

/-- `INT 16` in the last two bytes. -/
def intAtTop : State := start (fun s => { s with ip := 0x3FFE#16 }) [0x6A#8, 0x10#8]

theorem witness_StepRunsDecodedInstruction :
    Running intAtTop ∧ boundary intAtTop = .next intAtTop ∧
    decode (fetchBytes intAtTop.mem intAtTop.ip maxLength) = .ok (.intN 16#8) [] ∧ WellFormed (.intN 16#8) ∧
    intAtTop.hostEvents = [] ∧ intAtTop.flags.interrupt = false ∧ intAtTop.pic.isr = 0#8 :=
  ⟨rfl, rfl, by decide⟩

/-- The same with an interrupt entered at the boundary: the instruction is the handler's. -/
theorem witness_StepRunsDecodedInstruction_entry :
    ∃ t, Running (put 0x3000 0x49#8 (put 0x21 0x30#8 (pending 0x01#8 0x00#8 8#8))) ∧
      boundary (put 0x3000 0x49#8 (put 0x21 0x30#8 (pending 0x01#8 0x00#8 8#8))) = .next t ∧
      decode (fetchBytes t.mem t.ip maxLength) = .ok .hlt [0#8, 0#8, 0#8, 0#8, 0#8] :=
  ⟨_, rfl, rfl, by decide⟩

/-- Another encoding: every byte is HLT, one byte long. -/
def haltEncoding : InstrEncoding :=
  { decode := fun bytes => .ok .hlt bytes.tail, encode := fun _ => [0x49#8], length := fun _ => 1, maxLength := 1 }

theorem witness_StepRunsDecodedInstruction_encoding :
    Running intAtTop ∧ boundary intAtTop = .next intAtTop ∧
    haltEncoding.decode (fetchBytes intAtTop.mem intAtTop.ip haltEncoding.maxLength) = .ok .hlt [] :=
  ⟨rfl, rfl, rfl⟩

theorem witness_StepRunsDecodedInstruction_stopped :
    Running (pending 0x01#8 0x00#8 7#8) ∧ boundary (pending 0x01#8 0x00#8 7#8) = .fault (.reservedInterrupt []) :=
  ⟨rfl, rfl⟩

theorem witness_StepRunsEncodedInstruction :
    Running intAtTop ∧ boundary intAtTop = .next intAtTop ∧ WellFormed (.intN 16#8) ∧
    intAtTop.ip.toNat + (encode (.intN 16#8)).length ≤ 0x4000 ∧
    ∀ k : Nat, k < (encode (.intN 16#8)).length →
      (encode (.intN 16#8))[k]? = some (intAtTop.mem.read (intAtTop.ip.toNat + k)) := by
  refine ⟨rfl, rfl, by decide, by decide, fun k hk => ?_⟩
  have h : (encode (.intN 16#8)).length = 2 := by decide
  have : k = 0 ∨ k = 1 := by omega
  rcases this with rfl | rfl <;> decide

/-- For MovCopiesSource, AddInEveryForm, AdcInEveryForm, SubInEveryForm, SbbInEveryForm, CmpWritesOnlyFlags,
AndInEveryForm, OrInEveryForm, XorInEveryForm, IncOfEveryOperand, DecOfEveryOperand, NegOfEveryOperand,
NotOfEveryOperand and MemoryPrimitivesFollowR84: both ends of each range. -/
theorem witness_operand_ranges :
    (regs 0#16 0x3FFF#16).mem.wf = true ∧ ByteIn 0x0000#16 ∧ ByteIn 0x3FFF#16 ∧ WordIn 0x0000#16 ∧ WordIn 0x3FFE#16 ∧
    ByteIn (regs 0#16 0x3FFF#16).bx ∧ WordIn (regs 0#16 0x3FFE#16).bx := by decide

theorem witness_MemoryOperandsOutsideFault :
    ¬ ByteIn 0x4000#16 ∧ ¬ ByteIn 0xFFFF#16 ∧ ¬ WordIn 0x3FFF#16 ∧ ¬ WordIn 0xFFFF#16 ∧
    ¬ ByteIn (regs 0#16 0x4000#16).bx ∧ ¬ WordIn (regs 0#16 0x3FFF#16).bx := by decide

theorem witness_MixedWidthAccessesAgree :
    State.reset.mem.wf = true ∧ WordIn 0x3FFE#16 ∧ ∃ t u v : State, State.reset.memWrite16 0x3FFE#16 0xBEEF#16 = .next t ∧
      State.reset.memWrite8 0x3FFE#16 0xEF#8 = .next u ∧ u.memWrite8 (0x3FFE#16 + 1#16) 0xBE#8 = .next v :=
  ⟨rfl, by decide, _, _, _, rfl, rfl, rfl⟩

theorem witness_EqualBytesMeanEqualMemories :
    Memory.wf [(0, 1#8), (0x3FFF, 2#8)] = true ∧ Memory.wf [(1, 0#8)] = false ∧ Memory.wf [(2, 1#8), (1, 1#8)] = false ∧
    Memory.wf [(0x4000, 1#8)] = false := by decide

/-- For PushStoresRegister, PopLoadsRegister, PushfAndPopfMoveFlags, CallAndRetMoveIp, IretPopsIpAndFlags and
IntEntersVector: both ends of each range. -/
theorem witness_stack_ranges :
    CanPush (regs 2#16 0#16) ∧ CanPush (regs 0x4000#16 0#16) ∧ CanPop (regs 0#16 0#16) ∧ CanPop (regs 0x3FFE#16 0#16) ∧
    CanPushTwice (regs 4#16 0#16) ∧ CanPushTwice (regs 0x4000#16 0#16) ∧ CanPopTwice (regs 0#16 0#16) ∧
    CanPopTwice (regs 0x3FFC#16 0#16) ∧ (regs 2#16 0#16).mem.wf = true ∧ WellFormed (.intN 1#8) := by decide

theorem witness_StackBoundsFault :
    (regs 1#16 0#16).sp.toNat < 2 ∧ 0x4001 ≤ (regs 0x4001#16 0#16).sp.toNat ∧
    0x3FFF ≤ (regs 0x3FFF#16 0#16).sp.toNat ∧ (regs 3#16 0#16).sp.toNat = 3 ∧ (regs 2#16 0#16).sp.toNat = 2 ∧
    (regs 0x3FFD#16 0#16).sp.toNat = 0x3FFD ∧ (regs 0x3FFE#16 0#16).sp.toNat = 0x3FFE := by decide

/-- The same with `SP` set, before and after the F10 press at the boundary. -/
def pressedAt (sp : Word) : State := { pressed 8#8 with sp := sp }

/-- After the press. -/
def pendingAt (sp : Word) : State := { pending 0x01#8 0x00#8 8#8 with sp := sp }

/-- A hardware interrupt due at a boundary, with `SP` at the upper end of the first range. -/
theorem witness_StackBoundsFault_hardware_overflow :
    Running (pressedAt 3#16) ∧ AfterEvents (pressedAt 3#16) (pendingAt 3#16) ∧ Selected (pendingAt 3#16) 0 ∧
    (pendingAt 3#16).pic.vec[(0 : Fin 8)] ∉ (pendingAt 3#16).params.reservedIds ∧ (pendingAt 3#16).sp.toNat < 4 :=
  ⟨rfl, .inr ⟨_, _, rfl, _, rfl, rfl⟩, ⟨rfl, rfl, rfl, rfl, fun _ hk => absurd hk (Nat.not_lt_zero _)⟩, by decide,
    by decide⟩

/-- The same with `SP` at the lower end of the second range. -/
theorem witness_StackBoundsFault_hardware_outside :
    Running (pressedAt 0x4001#16) ∧ AfterEvents (pressedAt 0x4001#16) (pendingAt 0x4001#16) ∧
    Selected (pendingAt 0x4001#16) 0 ∧
    (pendingAt 0x4001#16).pic.vec[(0 : Fin 8)] ∉ (pendingAt 0x4001#16).params.reservedIds ∧
    0x4001 ≤ (pendingAt 0x4001#16).sp.toNat :=
  ⟨rfl, .inr ⟨_, _, rfl, _, rfl, rfl⟩, ⟨rfl, rfl, rfl, rfl, fun _ hk => absurd hk (Nat.not_lt_zero _)⟩, by decide,
    by decide⟩

/-- For PortsFollowTheTable, InReadsPorts and OutWritesPorts: ports 00h and FFh, the next port after FFh, DX. -/
theorem witness_ports_allowed :
    PortAllowed State.reset 0x00#8 .read ∧ PortAllowed State.reset 0xFF#8 .write ∧ nextPort 0xFF#8 = 0x00#8 ∧
    PortAllowed State.reset (nextPort 0xFF#8) .read ∧ PortAllowed State.reset (nextPort 0xFF#8) .write ∧
    (0xFF#8).toNat = ({ State.reset with dx := 0x12FF#16 } : State).dx.toNat % 256 := by decide

theorem witness_InvalidPortsFault :
    ¬ PortAllowed portBarred 0x30#8 .read ∧ ¬ PortAllowed portBarred 0x30#8 .write ∧
    ¬ PortAllowed portBarred (nextPort 0x2F#8) .read ∧ ¬ PortAllowed portBarred (nextPort 0x2F#8) .write ∧
    (0x30#8).toNat = ({ portBarred with dx := 0x0030#16 } : State).dx.toNat % 256 ∧
    (0x2F#8).toNat = ({ portBarred with dx := 0x002F#16 } : State).dx.toNat % 256 := by decide

theorem witness_OnlyOutWritesDevices :
    (∃ t, exec (.inPort .byte 0x40#8) State.reset = .next t) ∧ (∀ w p, Instr.inPort .byte 0x40#8 ≠ .outPort w p) ∧
    (∀ w, Instr.inPort .byte 0x40#8 ≠ .outDx w) ∧ ∃ t, exec (.outPort .word 0x12#8) State.reset = .next t :=
  ⟨⟨_, rfl⟩, fun _ _ h => (by cases h), fun _ h => (by cases h), ⟨_, rfl⟩⟩

theorem witness_IntThenIretRestores :
    (regs 4#16 0#16).mem.wf = true ∧ CanPushTwice (regs 4#16 0#16) ∧ ∃ t, exec (.intN 255#8) (regs 4#16 0#16) = .next t :=
  ⟨by decide, by decide, _, rfl⟩

/-- The input byte at the top of memory, where it lands in the saved FLAGS, and elsewhere. -/
theorem witness_Int6StoresHostByte :
    CanPush (regs 0x4000#16 0x3FFF#16) ∧ ByteIn (regs 0x4000#16 0x3FFF#16).bx ∧ CanPush (regs 2#16 0#16) ∧
    ByteIn (regs 2#16 0#16).bx ∧ (regs 2#16 0#16).mem.wf = true ∧
    ({ regs 0x4000#16 0x3FFF#16 with keyboard := [0x41#8] } : State).keyboard = 0x41#8 :: [] ∧
    Running { regs 0x4000#16 0x3FFF#16 with keyboard := [0x41#8] } ∧
    CanPush (regs 2#16 0x4000#16) ∧ ¬ ByteIn (regs 2#16 0x4000#16).bx := by decide

theorem witness_Int6WaitsForHost :
    (regs 0x4000#16 0x3FFF#16).mem.wf = true ∧ CanPush (regs 0x4000#16 0x3FFF#16) ∧
    (regs 0x4000#16 0x3FFF#16).keyboard = [] ∧ ByteIn (regs 0x4000#16 0x3FFF#16).bx ∧
    ¬ ByteIn (regs 0x4000#16 0x4000#16).bx := by decide

/-- No byte; the last byte at 3FFFh; one byte too many. -/
theorem witness_Int7PrintsBytes :
    (regs 2#16 0xFFFF#16).ax.toNat % 256 = 0 ∧ CanPush (regs 2#16 0xFFFF#16) ∧
    (∃ s : State, s.mem.wf = true ∧ CanPush s ∧ s.ax.toNat % 256 ≠ 0 ∧ s.bx.toNat + s.ax.toNat % 256 = 0x4000) ∧
    (∃ s : State, s.mem.wf = true ∧ CanPush s ∧ s.ax.toNat % 256 ≠ 0 ∧ s.bx.toNat + s.ax.toNat % 256 = 0x4001) :=
  ⟨by decide, by decide, ⟨{ regs 2#16 0x3FFF#16 with ax := 1#16 }, by decide⟩,
    ⟨{ regs 2#16 0x3FFF#16 with ax := 2#16 }, by decide⟩⟩

theorem witness_UnlistedFlagsUnchanged :
    (∃ t, exec (.ofBin .add (.regReg (.byte .al .bl))) State.reset = .next t) ∧
    (∃ t, exec (.ofUn .dec (.reg (.word .sp))) State.reset = .next t) ∧
    (∃ t, exec (.inPort .word 0xFF#8) State.reset = .next t) ∧ (∃ t, exec (.pop .sp) (regs 0#16 0#16) = .next t) ∧
    (∃ t, exec .ret (regs 0#16 0#16) = .next t) ∧ (∃ t, exec (.intN 8#8) State.reset = .next t) ∧
    (∃ t, exec .sti State.reset = .next t) ∧ State.reset.mem.wf = true ∧ ∃ t, exec .int7 State.reset = .next t :=
  ⟨⟨_, rfl⟩, ⟨_, rfl⟩, ⟨_, rfl⟩, ⟨_, rfl⟩, ⟨_, rfl⟩, ⟨_, rfl⟩, ⟨_, rfl⟩, rfl, ⟨_, rfl⟩⟩

/-- PicUpdateFollowsR275, clauses 1 to 4: an EOI, a line in service, `IF = 0`, every pending line masked. -/
theorem witness_PicUpdateFollowsR275_none :
    (∃ s : State, s.pic.isr ≠ 0#8 ∧ s.pic.eoi = 0x20#8) ∧
    (∃ s : State, s.pic.isr ≠ 0#8 ∧ s.pic.eoi ≠ 0x20#8) ∧
    (State.reset.pic.isr = 0#8 ∧ State.reset.flags.interrupt = false) ∧
    ((pending 0x81#8 0x81#8 8#8).pic.isr = 0#8 ∧ (pending 0x81#8 0x81#8 8#8).flags.interrupt = true ∧
      ∀ k : Nat, k < 8 → (pending 0x81#8 0x81#8 8#8).pic.irr.getLsbD k = true →
        (pending 0x81#8 0x81#8 8#8).pic.imr.getLsbD k = true) :=
  ⟨⟨{ State.reset with pic := { State.reset.pic with isr := 0x80#8, eoi := 0x20#8 } }, by decide⟩,
    ⟨{ State.reset with pic := { State.reset.pic with isr := 0x80#8, eoi := 0x21#8 } }, by decide⟩, by decide, by decide⟩

theorem pending_selects : Selected (pending 0x81#8 0x01#8 0xFF#8) 7 := by
  refine ⟨rfl, rfl, rfl, rfl, fun k hk => ?_⟩
  have : ∀ k : Fin 7, (pending 0x81#8 0x01#8 0xFF#8).pic.irr.getLsbD k = true →
      (pending 0x81#8 0x01#8 0xFF#8).pic.imr.getLsbD k = true := by decide
  exact this ⟨k, hk⟩

/-- HardwareInterruptEntry and PicUpdateFollowsR275: line 7 behind a masked line 0, no host event, vector FFh; line 0
requested by the host at this boundary, vectors 8 and the reserved 7. -/
theorem witness_HardwareInterruptEntry :
    AfterEvents (pending 0x81#8 0x01#8 0xFF#8) (pending 0x81#8 0x01#8 0xFF#8) ∧
    (pending 0x81#8 0x01#8 0xFF#8).mem.wf = true ∧ CanPushTwice (pending 0x81#8 0x01#8 0xFF#8) ∧
    Selected (pending 0x81#8 0x01#8 0xFF#8) 7 ∧
    (pending 0x81#8 0x01#8 0xFF#8).pic.vec[7] ∉ (pending 0x81#8 0x01#8 0xFF#8).params.reservedIds :=
  ⟨.inl ⟨rfl, rfl⟩, by decide, by decide, pending_selects, by decide⟩

theorem witness_HardwareInterruptEntry_event :
    AfterEvents (pressed 8#8) (pending 0x01#8 0x00#8 8#8) ∧ (pending 0x01#8 0x00#8 8#8).mem.wf = true ∧
    CanPushTwice (pending 0x01#8 0x00#8 8#8) ∧ Selected (pending 0x01#8 0x00#8 8#8) 0 ∧
    (pending 0x01#8 0x00#8 8#8).pic.vec[0] ∉ (pending 0x01#8 0x00#8 8#8).params.reservedIds ∧ Running (pressed 8#8) ∧
    ∃ t, boundary (pressed 8#8) = .next t ∧ decode (fetchBytes t.mem t.ip maxLength) =
      .ok (.movRegReg (.byte .al .al)) [0#8, 0#8, 0#8, 0#8] :=
  ⟨.inr ⟨_, _, rfl, _, rfl, rfl⟩, rfl, by decide,
    ⟨rfl, rfl, rfl, rfl, fun _ hk => absurd hk (Nat.not_lt_zero _)⟩, by decide, rfl, _, rfl, by decide⟩

theorem witness_PicUpdateFollowsR275_boundary :
    AfterEvents (pressed 7#8) (pending 0x01#8 0x00#8 7#8) ∧ Selected (pending 0x01#8 0x00#8 7#8) 0 ∧
    (pending 0x01#8 0x00#8 7#8).pic.vec[0] ∈ (pending 0x01#8 0x00#8 7#8).params.reservedIds ∧
    picUpdate (pending 0x01#8 0x00#8 7#8) = .fault (.reservedInterrupt []) ∧
    picUpdate (pending 0x00#8 0x00#8 8#8) = .next (none, pending 0x00#8 0x00#8 8#8) ∧
    ∃ t, picUpdate (pending 0x01#8 0x00#8 8#8) = .next (some 8#8, t) :=
  ⟨.inr ⟨_, _, rfl, _, rfl, rfl⟩, ⟨rfl, rfl, rfl, rfl, fun _ hk => absurd hk (Nat.not_lt_zero _)⟩, by decide, rfl, rfl, _,
    rfl⟩

/-- `IF = 0` with every line requested; then a line in service and an F10 press at the boundary. -/
theorem witness_BlockedBoundaryEntersNothing :
    ∃ s : State, AfterEvents s s ∧ s.flags.interrupt = false ∧ s.pic.irr = 0xFF#8 :=
  ⟨{ pending 0xFF#8 0x00#8 8#8 with flags := fl true true true true false }, .inl ⟨rfl, rfl⟩, rfl, rfl⟩

theorem witness_BlockedBoundaryEntersNothing_in_service :
    ∃ s u : State, AfterEvents s u ∧ u.pic.isr ≠ 0#8 ∧ u.flags.interrupt = true ∧ u.pic.irr = 0x01#8 ∧ s.pic.irr = 0#8 :=
  ⟨{ pressed 8#8 with pic := { State.reset.pic with isr := 0x80#8, eoi := 0x20#8 } }, _, .inr ⟨_, _, rfl, _, rfl, rfl⟩,
    by decide, rfl, rfl, rfl⟩

theorem witness_PrinterDonePrints :
    busyState.hs.state.getLsbD 0 = true ∧ State.reset.hs.state.getLsbD 0 = false := by decide

/-- The bases of the table, and a PIO at the end of the port space. -/
theorem witness_PioDirectionsSeparate :
    State.reset.params.deviceConfig = .pioSwitchesLeds ∧ State.reset.ports.Nodup ∧
    PortAllowed State.reset State.reset.params.pioBase .write ∧
    PortAllowed State.reset (nextPort State.reset.params.pioBase) .write ∧
    ({ State.reset with params := { pioBase := 0xFF#8 } } : State).ports.Nodup ∧
    nextPort ({ State.reset with params := { pioBase := 0xFF#8 } } : State).params.pioBase = 0x00#8 := by decide

theorem witness_ConsoleGrowsParametersStay : ∃ t, step busyState = .next t := next_of_answers (by decide)

/-- The remaining hypotheses: a width of AluAddFollowsR170 and AluSubFollowsR171, an instruction of HaltIsForGood, a
register of ByteRegistersAlias, a bit of PioDirectionsSeparate. -/
theorem witness_remaining :
    ((8 = 8 ∨ 8 = 16) ∧ (16 = 8 ∨ 16 = 16)) ∧ (Instr.int0 = .hlt ∨ Instr.int0 = .int0) ∧ Reg8.ah ≠ Reg8.al ∧ 7 < 8 := by
  decide

end Sys2Proof.Tests
end

