-- ==== Sys2Proof/Proofs/StepStructure.lean ====
section
/-! The structure of a step from a running state (R292): its answer from what the boundary and the fetch answer, under
any encoding (R7), and the boundary at which nothing happens. -/

namespace Sys2Proof.Machine

/-! ### The step -/

/-- Past the boundary, a step is the fetch, then the instruction. -/
theorem stepWith_of_boundary_next {enc : InstrEncoding} {s t : State} (hs : Running s) (hb : boundary s = .next t) :
    stepWith enc s = andThen (fetchDecodeWith enc t) fun (i, t1) => endOfInstruction (exec i t1) := by
  rw [stepWith_running hs, hb, andThen_next]

/-- Past the boundary and with bytes that decode at `IP`, a step is the instruction (R34). -/
theorem stepWith_of_decode {enc : InstrEncoding} {s t : State} {i : Instr} {rest : List Byte} (hs : Running s)
    (hb : boundary s = .next t) (hd : enc.decode (fetchBytes t.mem t.ip enc.maxLength) = .ok i rest) :
    stepWith enc s = endOfInstruction (exec i (t.setIp (t.ip + BitVec.ofNat 16 (enc.length i)))) := by
  have hf : fetchDecodeWith enc t = .next (i, t.setIp (t.ip + BitVec.ofNat 16 (enc.length i))) :=
    fetchDecodeWith_eq_next.2 ⟨⟨rest, hd⟩, rfl⟩
  rw [stepWith_of_boundary_next hs hb, hf, andThen_next]

/-- A boundary that stops the run stops the step. -/
theorem stepWith_of_boundary_fault {enc : InstrEncoding} {s : State} {r : Fault} (hs : Running s)
    (hb : boundary s = .fault r) : stepWith enc s = .fault r := by
  rw [stepWith_running hs, hb, andThen_fault]

/-! ### The boundary -/

/-- With no line in service and `IF = 0`, `PIC.update()` selects nothing and changes nothing (R275 steps 1 and 2). -/
theorem picUpdate_of_disabled {s : State} (hi : s.pic.isr = 0#8) (hf : s.flags.interrupt = false) :
    picUpdate s = .next (none, s) := by
  simp [picUpdate, hi, hf]

/-- Where `PIC.update()` selects no vector, the service enters no interrupt. -/
theorem serviceInterrupts_of_picUpdate_none {s t : State} (h : picUpdate s = .next (none, t)) :
    serviceInterrupts s = .next t := by
  rw [serviceInterrupts, h, andThen_next]

/-- With no host event, `IF = 0` and no line in service a boundary changes nothing (R275, R276). -/
theorem boundary_of_quiet {s : State} (he : s.hostEvents = []) (hf : s.flags.interrupt = false)
    (hi : s.pic.isr = 0#8) : boundary s = .next s := by
  have hevents : AfterEvents s s := .inl ⟨he, rfl⟩
  rw [boundary_of_afterEvents hevents]
  exact serviceInterrupts_of_picUpdate_none (picUpdate_of_disabled hi hf)

/-- Settles O10: the first clause is the second at the encoding of 30_encoding. -/
theorem stepRunsDecodedInstruction : Obligations.StepRunsDecodedInstruction := by
  refine ⟨?standard, ?anyEncoding, ?boundaryFaults, ?quietBoundary⟩
  case standard =>
    intro s t i rest hs hb hd _
    exact stepWith_of_decode (enc := .standard) hs hb hd
  case anyEncoding =>
    intro enc s t i rest hs hb hd
    exact stepWith_of_decode hs hb hd
  case boundaryFaults =>
    intro s r hs hb
    exact stepWith_of_boundary_fault hs hb
  case quietBoundary =>
    intro s he hf hi
    exact boundary_of_quiet he hf hi

end Sys2Proof.Machine
end

section
/-! What one step can change (10_state R37, R43, R44, R47, R48): the frame of every instruction, split into OUT, which
writes devices only, and the others, which write no device; from it the invariant of every step. -/

namespace Sys2Proof.Machine

/-! ### Single bits and the bits of `STATE` -/

/-- A line put in service while none is (R44). -/
theorem atMostOneBit_setBit_zero (n : Fin 8) : atMostOneBit (setBit 0#8 n) := .inr ⟨n, BitVec.zero_or⟩

/-- BUSY set: no reserved bit changes (R47). -/
theorem reserved_setBit_busy (b : Byte) : setBit b 0 &&& ~~~ hsStateBits = b &&& ~~~ hsStateBits := by
  have hbusy : bitMask 0 &&& ~~~ hsStateBits = 0#8 := by decide
  rw [setBit, BitVec.and_or_distrib_right, hbusy, BitVec.or_zero]

/-- Clearing any bit sets no reserved bit. -/
theorem reserved_clearBit {b : Byte} (h : b &&& ~~~ hsStateBits = 0#8) (n : Fin 8) :
    clearBit b n &&& ~~~ hsStateBits = 0#8 := by
  rw [clearBit, BitVec.and_assoc, BitVec.and_comm (~~~ bitMask n), ← BitVec.and_assoc, h, BitVec.zero_and]

/-- What the CPU leaves in `STATE` (R96) has no reserved bit, whatever stood there and whatever is written. -/
theorem reserved_writtenState (old b : Byte) :
    ((old &&& 1#8) ||| (b &&& hsWritableBits)) &&& ~~~ hsStateBits = 0#8 := by
  have hbusy : 1#8 &&& ~~~ hsStateBits = 0#8 := by decide
  have hwritable : hsWritableBits &&& ~~~ hsStateBits = 0#8 := by decide
  rw [BitVec.and_or_distrib_right, BitVec.and_assoc, BitVec.and_assoc, hbusy, hwritable, BitVec.and_zero,
    BitVec.and_zero, BitVec.or_zero]

/-! ### The console output sequence (R48) -/

theorem consoleGrows_refl (s : State) : ∃ out : List Byte, s.console = s.console ++ out :=
  ⟨[], (List.append_nil _).symm⟩

theorem consoleGrows_trans {s t u : State} (h : ∃ out : List Byte, t.console = s.console ++ out)
    (h' : ∃ out : List Byte, u.console = t.console ++ out) : ∃ out : List Byte, u.console = s.console ++ out := by
  obtain ⟨out, ho⟩ := h
  obtain ⟨out', ho'⟩ := h'
  exact ⟨out ++ out', by rw [ho', ho, List.append_assoc]⟩

/-! ### Instructions other than OUT -/

/-- `t` has the devices, the switches and the parameters of `s`, its console begins with that of `s`, and its memory is
canonical if that of `s` is. -/
structure KeepsDevices (s t : State) : Prop where
  pic : t.pic = s.pic
  pio : t.pio = s.pio
  timer : t.timer = s.timer
  hs : t.hs = s.hs
  switches : t.switches = s.switches
  params : t.params = s.params
  console : ∃ out, t.console = s.console ++ out
  memory : s.mem.wf = true → t.mem.wf = true

theorem KeepsDevices.refl (s : State) : KeepsDevices s s :=
  ⟨rfl, rfl, rfl, rfl, rfl, rfl, consoleGrows_refl s, id⟩

theorem KeepsDevices.trans {s t u : State} (h : KeepsDevices s t) (h' : KeepsDevices t u) : KeepsDevices s u where
  pic := h'.pic.trans h.pic
  pio := h'.pio.trans h.pio
  timer := h'.timer.trans h.timer
  hs := h'.hs.trans h.hs
  switches := h'.switches.trans h.switches
  params := h'.params.trans h.params
  console := consoleGrows_trans h.console h'.console
  memory := h'.memory ∘ h.memory

/-- A change of registers, `IP`, flags and memory only. -/
theorem SameOutside.keepsDevices {s t : State} (h : SameOutside s t) (hm : s.mem.wf = true → t.mem.wf = true) :
    KeepsDevices s t := by
  unfold SameOutside at h
  constructor
  case console => exact ⟨[], by rw [h, List.append_nil]⟩
  case memory => exact hm
  all_goals rw [h]

theorem push16_keepsDevices {s t : State} {v : Word} (h : s.push16 v = .next t) : KeepsDevices s t := by
  obtain ⟨⟨h2, h4⟩, rfl⟩ := push16_eq_next.1 h
  exact SameOutside.keepsDevices rfl fun hm => writeWord_wf hm (by simp only [Config.memSize]; omega) v

theorem pop16_keepsDevices {s t : State} {v : Word} (h : s.pop16 = .next (v, t)) : KeepsDevices s t := by
  obtain ⟨-, -, rfl⟩ := pop16_eq_next.1 h
  exact SameOutside.keepsDevices rfl id

theorem memWrite8_keepsDevices {s t : State} {a : Word} {v : Byte} (h : s.memWrite8 a v = .next t) :
    KeepsDevices s t := by
  obtain ⟨hin, rfl⟩ := memWrite8_eq_next.1 h
  exact SameOutside.keepsDevices rfl fun hm => write_wf hm (by simp only [Config.memSize]; omega) v

theorem enterInterrupt_keepsDevices {s t : State} {id : Byte} (h : s.enterInterrupt id = .next t) :
    KeepsDevices s t := by
  obtain ⟨⟨h4, htop⟩, u, rfl, rfl⟩ := enterInterrupt_eq_next.1 h
  refine SameOutside.keepsDevices rfl fun hm => writeWord_wf (writeWord_wf hm ?_ _) ?_ _ <;>
    simp only [Config.memSize] <;> omega

theorem returnFromInterrupt_keepsDevices {s t : State} (h : s.returnFromInterrupt = .next t) : KeepsDevices s t := by
  obtain ⟨-, rfl⟩ := returnFromInterrupt_eq_next.1 h
  exact SameOutside.keepsDevices rfl id

/-- The console output of INT 7 (R250). -/
theorem printBytes_keepsDevices {n : Nat} {a : Word} {s t : State} (h : printBytes n a s = .next t) :
    KeepsDevices s t := by
  obtain ⟨-, rfl⟩ := printBytes_eq_next.1 h
  exact ⟨rfl, rfl, rfl, rfl, rfl, rfl, ⟨_, rfl⟩, id⟩

/-- A pop, and then only registers, flags, `IP` or the run status changed. -/
theorem pop16_andThen_keepsDevices {s t : State} {k : Word → State → State} (hk : ∀ v u, KeepsDevices u (k v u))
    (h : (andThen s.pop16 fun (v, u) => .next (k v u)) = .next t) : KeepsDevices s t := by
  obtain ⟨⟨v, u⟩, hpop, h⟩ := andThen_eq_next.1 h
  cases h
  exact (pop16_keepsDevices hpop).trans (hk v u)

theorem finishInt6_keepsDevices {b : Byte} {s t : State} (h : finishInt6 b s = .next t) : KeepsDevices s t := by
  obtain ⟨u, hstore, h⟩ := andThen_eq_next.1 h
  exact (memWrite8_keepsDevices hstore).trans
    (pop16_andThen_keepsDevices (k := fun w v => { v.loadFlags w with status := .running })
      (fun _ v => ⟨rfl, rfl, rfl, rfl, rfl, rfl, consoleGrows_refl v, id⟩) h)

theorem awaitKeyboard_keepsDevices {s t : State} (h : awaitKeyboard s = .next t) : KeepsDevices s t := by
  unfold awaitKeyboard at h
  split at h
  next => cases h; exact ⟨rfl, rfl, rfl, rfl, rfl, rfl, consoleGrows_refl s, id⟩
  next b rest _ =>
    have htake : KeepsDevices s { s with keyboard := rest } := ⟨rfl, rfl, rfl, rfl, rfl, rfl, consoleGrows_refl s, id⟩
    exact htake.trans (finishInt6_keepsDevices h)

theorem setInterrupt_keepsDevices (s : State) (b : Bool) : KeepsDevices s (s.setInterrupt b) :=
  SameOutside.keepsDevices rfl id

theorem execInt6_keepsDevices {s t : State} (h : execInt6 s = .next t) : KeepsDevices s t := by
  obtain ⟨u, hpush, h⟩ := andThen_eq_next.1 h
  exact (push16_keepsDevices hpush).trans ((setInterrupt_keepsDevices u _).trans (awaitKeyboard_keepsDevices h))

theorem execInt7_keepsDevices {s t : State} (h : execInt7 s = .next t) : KeepsDevices s t := by
  obtain ⟨u, hpush, h⟩ := andThen_eq_next.1 h
  obtain ⟨v, hprint, h⟩ := andThen_eq_next.1 h
  exact (push16_keepsDevices hpush).trans ((setInterrupt_keepsDevices u _).trans
    ((printBytes_keepsDevices hprint).trans
      (pop16_andThen_keepsDevices (k := fun w x => x.loadFlags w) (fun _ _ => SameOutside.keepsDevices rfl id) h)))

/-- IN writes only `AL` or `AX` (R227). -/
theorem inFrom_eq_next {w : Size} {p : Byte} {s t : State} (h : inFrom w p s = .next t) :
    (∃ b, t = s.setReg8 .al b) ∨ ∃ v, t = s.setReg16 .ax v := by
  cases w with
  | byte =>
    obtain ⟨b, -, h⟩ := andThen_eq_next.1 h
    cases h; exact .inl ⟨b, rfl⟩
  | word =>
    obtain ⟨lo, -, h⟩ := andThen_eq_next.1 h
    obtain ⟨hi, -, h⟩ := andThen_eq_next.1 h
    cases h; exact .inr ⟨_, rfl⟩

theorem inFrom_keepsDevices {w : Size} {p : Byte} {s t : State} (h : inFrom w p s = .next t) : KeepsDevices s t := by
  rcases inFrom_eq_next h with ⟨b, rfl⟩ | ⟨v, rfl⟩ <;> exact SameOutside.keepsDevices rfl id

/-- A conditional jump moves `IP` or does nothing (R230). -/
theorem jumpIf_eq_next {k : Cond} {addr : Word} {s t : State} (h : jumpIf k addr s = .next t) :
    t = s.setIp addr ∨ t = s := by
  unfold jumpIf at h
  cases hk : k.holds s.flags <;> simp only [hk] at h <;> cases h
  · exact .inr rfl
  · exact .inl rfl

theorem jumpIf_keepsDevices {k : Cond} {addr : Word} {s t : State} (h : jumpIf k addr s = .next t) :
    KeepsDevices s t := by
  rcases jumpIf_eq_next h with rfl | rfl
  · exact SameOutside.keepsDevices rfl id
  · exact KeepsDevices.refl _

/-! ### OUT -/

/-- Only device registers differ, and of these neither IRR nor ISR, and no reserved bit of `STATE` becomes 1 (R96). -/
structure WritesOnlyDevices (s t : State) : Prop where
  frame : t = { s with pic := t.pic, pio := t.pio, timer := t.timer, hs := t.hs }
  irr : t.pic.irr = s.pic.irr
  isr : t.pic.isr = s.pic.isr
  handshake : s.hs.state &&& ~~~ hsStateBits = 0#8 → t.hs.state &&& ~~~ hsStateBits = 0#8

theorem WritesOnlyDevices.refl (s : State) : WritesOnlyDevices s s := ⟨rfl, rfl, rfl, id⟩

theorem WritesOnlyDevices.trans {s t u : State} (h : WritesOnlyDevices s t) (h' : WritesOnlyDevices t u) :
    WritesOnlyDevices s u where
  frame := by rw [h'.frame, h.frame]
  irr := h'.irr.trans h.irr
  isr := h'.isr.trans h.isr
  handshake := h'.handshake ∘ h.handshake

theorem writeDevice_handshake {s : State} (r : DeviceReg) (b : Byte) (h : s.hs.state &&& ~~~ hsStateBits = 0#8) :
    (s.writeDevice r b).hs.state &&& ~~~ hsStateBits = 0#8 := by
  cases r
  case hsData =>
    unfold State.writeDevice
    cases s.hs.busy
    · exact (reserved_setBit_busy _).trans h
    · exact h
  case hsState => exact reserved_writtenState _ _
  all_goals exact h

theorem ioWrite_writesOnlyDevices {s t : State} {p b : Byte} (h : s.ioWrite p b = .next t) :
    WritesOnlyDevices s t := by
  obtain ⟨-, rfl⟩ := ioWrite_eq_next.1 h
  cases deviceReg s.params p with
  | none => exact WritesOnlyDevices.refl s
  | some r =>
    obtain ⟨hframe, hirr, hisr⟩ := writeDevice_frame s r b
    exact ⟨hframe, hirr, hisr, writeDevice_handshake r b⟩

theorem outTo_writesOnlyDevices {w : Size} {p : Byte} {s t : State} (h : outTo w p s = .next t) :
    WritesOnlyDevices s t := by
  cases w with
  | byte => exact ioWrite_writesOnlyDevices h
  | word =>
    obtain ⟨u, hlow, hhigh⟩ := andThen_eq_next.1 h
    exact (ioWrite_writesOnlyDevices hlow).trans (ioWrite_writesOnlyDevices hhigh)

/-! ### Every instruction -/

/-- The frame of `exec`: OUT writes devices only, every other instruction writes none (R43, R44, R229). -/
theorem exec_keepsDevices_or_writesOnlyDevices {i : Instr} {s t : State} (h : exec i s = .next t) :
    KeepsDevices s t ∨ (((∃ w p, i = .outPort w p) ∨ ∃ w, i = .outDx w) ∧ WritesOnlyDevices s t) := by
  cases i using Instr.byClass
  case bin op f =>
    obtain ⟨hout, -, -, hm⟩ := exec_ofBin_frame h
    exact .inl (hout.keepsDevices hm)
  case un op f =>
    obtain ⟨hout, -, -, hm⟩ := exec_ofUn_frame h
    exact .inl (hout.keepsDevices hm)
  case nop => cases h; exact .inl (.refl _)
  case hlt | int0 | int3 =>
    cases h; exact .inl ⟨rfl, rfl, rfl, rfl, rfl, rfl, consoleGrows_refl s, id⟩
  case cli | sti | jmp => cases h; exact .inl (SameOutside.keepsDevices rfl id)
  case jz | jnz | jc | jnc | js | jns | jo | jno => exact .inl (jumpIf_keepsDevices h)
  case pushf | push => exact .inl (push16_keepsDevices h)
  case call =>
    obtain ⟨u, hpush, h⟩ := andThen_eq_next.1 h
    cases h; exact .inl ((push16_keepsDevices hpush).trans (SameOutside.keepsDevices rfl id))
  case popf =>
    exact .inl (pop16_andThen_keepsDevices (k := fun w u => u.loadFlags w)
      (fun _ _ => SameOutside.keepsDevices rfl id) h)
  case ret =>
    exact .inl (pop16_andThen_keepsDevices (k := fun v u => u.setIp v)
      (fun _ _ => SameOutside.keepsDevices rfl id) h)
  case pop r =>
    refine .inl (pop16_andThen_keepsDevices (k := fun v u => u.setReg16 r v) (fun v u => ?_) h)
    cases r <;> exact SameOutside.keepsDevices rfl id
  case iret => exact .inl (returnFromInterrupt_keepsDevices h)
  case intN => exact .inl (enterInterrupt_keepsDevices h)
  case int6 => exact .inl (execInt6_keepsDevices h)
  case int7 => exact .inl (execInt7_keepsDevices h)
  case inPort | inDx => exact .inl (inFrom_keepsDevices h)
  case outPort w p => exact .inr ⟨.inl ⟨w, p, rfl⟩, outTo_writesOnlyDevices h⟩
  case outDx w => exact .inr ⟨.inr ⟨w, rfl⟩, outTo_writesOnlyDevices h⟩

/-- Settles O41: the frame of `exec`, read for the devices. -/
theorem onlyOutWritesDevices : Obligations.OnlyOutWritesDevices := by
  intro i s t h
  rcases exec_keepsDevices_or_writesOnlyDevices h with hk | ⟨hout, hw⟩
  · exact ⟨fun _ _ => ⟨hk.pic, hk.pio, hk.timer, hk.hs⟩, by rw [hk.pic], by rw [hk.pic], hk.switches, hk.params⟩
  · refine ⟨fun hport hdx => ?_, hw.irr, hw.isr, by rw [hw.frame], by rw [hw.frame]⟩
    rcases hout with ⟨w, p, rfl⟩ | ⟨w, rfl⟩
    · exact absurd rfl (hport w p)
    · exact absurd rfl (hdx w)

/-! ### Every step -/

/-- What every part of a step does: the invariant is kept, the console only grows, the parameters stay. -/
structure Evolves (s t : State) : Prop where
  invariant : Invariant s → Invariant t
  console : ∃ out : List Byte, t.console = s.console ++ out
  params : t.params = s.params

theorem Evolves.refl (s : State) : Evolves s s := ⟨id, consoleGrows_refl s, rfl⟩

theorem Evolves.trans {s t u : State} (h : Evolves s t) (h' : Evolves t u) : Evolves s u where
  invariant := h'.invariant ∘ h.invariant
  console := consoleGrows_trans h.console h'.console
  params := h'.params.trans h.params

theorem KeepsDevices.evolves {s t : State} (h : KeepsDevices s t) : Evolves s t where
  invariant hi := ⟨h.memory hi.memory, by rw [h.pic]; exact hi.inService, by rw [h.hs]; exact hi.handshake⟩
  console := h.console
  params := h.params

theorem WritesOnlyDevices.evolves {s t : State} (h : WritesOnlyDevices s t) : Evolves s t where
  invariant hi := ⟨by rw [h.frame]; exact hi.memory, by rw [h.isr]; exact hi.inService, h.handshake hi.handshake⟩
  console := ⟨[], by rw [h.frame, List.append_nil]⟩
  params := by rw [h.frame]

theorem exec_evolves {i : Instr} {s t : State} (h : exec i s = .next t) : Evolves s t := by
  rcases exec_keepsDevices_or_writesOnlyDevices h with hk | ⟨-, hw⟩
  · exact hk.evolves
  · exact hw.evolves

theorem endOfInstruction_evolves {s t : State} {o : Result State} (ho : ∀ u, o = .next u → Evolves s u)
    (h : endOfInstruction o = .next t) : Evolves s t := by
  obtain ⟨u, hu, h⟩ := andThen_eq_next.1 h
  cases h
  exact (ho u hu).trans ⟨fun hi => ⟨hi.memory, hi.inService, hi.handshake⟩, consoleGrows_refl u, rfl⟩

/-- A host event: memory and ISR stay, and `STATE` changes at most by BUSY cleared (R285). -/
theorem hostEvent_evolves {s t : State} {e : HostEvent} (h : s.hostEvent e = .next t) : Evolves s t := by
  obtain ⟨hframe, hhs, hconsole⟩ := hostEvent_frame h
  refine ⟨fun hi => ⟨by rw [hframe]; exact hi.memory, by rw [hframe]; exact hi.inService, ?_⟩, hconsole, by rw [hframe]⟩
  rcases hhs with hsame | hcleared
  · rw [hsame]; exact hi.handshake
  · rw [hcleared]; exact reserved_clearBit hi.handshake 0

theorem hostEventsAt_evolves {es : List HostEvent} {s t : State} (h : hostEventsAt es s = .next t) :
    Evolves s t := by
  induction es generalizing s with
  | nil => cases h; exact .refl _
  | cons e es ih =>
    obtain ⟨u, hu, h⟩ := andThen_eq_next.1 h
    exact (hostEvent_evolves hu).trans (ih h)

theorem takeHostEvents_evolves {s t : State} (h : takeHostEvents s = .next t) : Evolves s t := by
  unfold takeHostEvents at h
  split at h
  next => cases h; exact .refl s
  next es later _ =>
    have htake : Evolves s { s with hostEvents := later } :=
      ⟨fun hi => ⟨hi.memory, hi.inService, hi.handshake⟩, consoleGrows_refl s, rfl⟩
    exact htake.trans (hostEventsAt_evolves h)

/-- A line is put in service only where none is, and taken out of service with all others (R275, R279). -/
theorem serviceInterrupts_evolves {s t : State} (h : serviceInterrupts s = .next t) : Evolves s t := by
  rcases serviceInterrupts_eq_next h with rfl | rfl | ⟨hidle, -, n, -, hentry⟩
  · exact .refl _
  · exact ⟨fun hi => ⟨hi.memory, .inl rfl, hi.handshake⟩, consoleGrows_refl s, rfl⟩
  · have hone : atMostOneBit (setBit s.pic.isr n) := by rw [hidle]; exact atMostOneBit_setBit_zero n
    have hack : Evolves s { s with pic := s.pic.acknowledge n } :=
      ⟨fun hi => ⟨hi.memory, hone, hi.handshake⟩, consoleGrows_refl s, rfl⟩
    exact hack.trans (enterInterrupt_keepsDevices hentry).evolves

theorem boundary_evolves {s t : State} (h : boundary s = .next t) : Evolves s t := by
  obtain ⟨u, hevents, hservice⟩ := andThen_eq_next.1 h
  exact (takeHostEvents_evolves hevents).trans (serviceInterrupts_evolves hservice)

theorem runInstruction_evolves {enc : InstrEncoding} {s t : State} (h : runInstruction enc s = .next t) :
    Evolves s t := by
  obtain ⟨⟨i, u⟩, hfetch, h⟩ := andThen_eq_next.1 h
  obtain ⟨-, rfl⟩ := fetchDecodeWith_eq_next.1 hfetch
  have hmove : KeepsDevices s (s.setIp (s.ip + BitVec.ofNat 16 (enc.length i))) := SameOutside.keepsDevices rfl id
  exact hmove.evolves.trans (endOfInstruction_evolves (fun _ => exec_evolves) h)

theorem resumeInt6_evolves {s t : State} (h : resumeInt6 s = .next t) : Evolves s t := by
  unfold resumeInt6 at h
  split at h
  next => cases h; exact .refl s
  next b rest _ =>
    have htake : Evolves s { s with keyboard := rest } :=
      ⟨fun hi => ⟨hi.memory, hi.inService, hi.handshake⟩, consoleGrows_refl s, rfl⟩
    exact htake.trans (endOfInstruction_evolves (fun _ hu => (finishInt6_keepsDevices hu).evolves) h)

/-- A step, by the run status: a running machine's boundary and instruction, a waiting `INT 6`, or nothing (R292). -/
theorem step_evolves {s t : State} (h : step s = .next t) : Evolves s t := by
  cases hstatus : s.status with
  | running =>
    rw [step_running hstatus] at h
    obtain ⟨u, hboundary, h⟩ := andThen_eq_next.1 h
    exact (boundary_evolves hboundary).trans (runInstruction_evolves (enc := .standard) h)
  | awaitingInput =>
    rw [step_awaiting hstatus] at h
    exact resumeInt6_evolves h
  | halted =>
    rw [step_halted hstatus] at h
    cases h; exact .refl s

/-- Settles O2. -/
theorem stepKeepsInvariant : Obligations.StepKeepsInvariant := fun _ _ hi h => (step_evolves h).invariant hi

/-- Settles O60. -/
theorem consoleGrowsParametersStay : Obligations.ConsoleGrowsParametersStay := fun _ _ h =>
  ⟨(step_evolves h).console, (step_evolves h).params⟩

end Sys2Proof.Machine
end

section
/-! The state (10_state): reset, the halves of the word registers, the FLAGS word, the canonical memory. -/

namespace Sys2Proof.Machine

/-- Settles O1. -/
theorem resetSatisfiesInvariant : Obligations.ResetSatisfiesInvariant where
  memory := nil_wf
  inService := .inl rfl
  handshake := by decide

/-- Settles O28: reading by the halves of a word, writing by the law of byte register writes. -/
theorem byteRegistersAlias : Obligations.ByteRegistersAlias := by
  refine ⟨fun s => ⟨loByte_toNat _, hiByte_toNat _, loByte_toNat _, hiByte_toNat _, loByte_toNat _, hiByte_toNat _,
    loByte_toNat _, hiByte_toNat _⟩, fun s d v => ⟨?written, fun r hr => ?others, setReg8_sp s d v⟩⟩
  case written => rw [reg8_setReg8, if_pos rfl]
  case others => rw [reg8_setReg8, if_neg hr]

/-! ### The FLAGS word (R39) -/

/-- R39's layout, over the 32 values of the five flags. -/
theorem toWord_toNat (f : Flags) : f.toWord.toNat = flagsNat f := by
  have hall : ∀ c z n o i : Bool, (Flags.toWord ⟨c, z, n, o, i⟩).toNat = flagsNat ⟨c, z, n, o, i⟩ := by decide
  exact hall f.carry f.zero f.sign f.overflow f.interrupt

/-- A formed FLAGS word loads back. -/
theorem ofWord_toWord (f : Flags) : Flags.ofWord f.toWord = f := by
  have hall : ∀ c z n o i : Bool, Flags.ofWord (Flags.toWord ⟨c, z, n, o, i⟩) = ⟨c, z, n, o, i⟩ := by decide
  exact hall f.carry f.zero f.sign f.overflow f.interrupt

/-- The flags of any word are its bits 0, 6, 7, 9 and 11. -/
theorem flagsFrom_ofWord (w : Word) : FlagsFrom (Flags.ofWord w) w.toNat := ⟨rfl, rfl, rfl, rfl, rfl⟩

/-- Settles O32. -/
theorem flagsWordLayout : Obligations.FlagsWordLayout :=
  ⟨toWord_toNat, fun _ w => ⟨flagsFrom_ofWord w, rfl⟩, ofWord_toWord⟩

/-! ### The canonical memory (R42) -/

/-- A canonical list gives a byte other than 00h at its first address. -/
theorem read_head_ne_zero {lo k : Nat} {v : Byte} {m : Memory} (hm : Memory.wfFrom lo ((k, v) :: m) = true) :
    Memory.read ((k, v) :: m) k ≠ 0#8 := by
  obtain ⟨-, -, hv, -⟩ := wfFrom_cons.1 hm
  simpa [Memory.read] using hv

/-- Canonical lists with the same bytes have the same first address: below its own, a list reads as 00h. -/
theorem head_le_of_read_eq {lo lo' k k' : Nat} {v v' : Byte} {m m' : Memory}
    (hm : Memory.wfFrom lo ((k, v) :: m) = true) (hm' : Memory.wfFrom lo' ((k', v') :: m') = true)
    (h : ∀ a, Memory.read ((k, v) :: m) a = Memory.read ((k', v') :: m') a) : k' ≤ k := by
  obtain ⟨-, htop', hv', hrest'⟩ := wfFrom_cons.1 hm'
  have hfrom : Memory.wfFrom k' ((k', v') :: m') = true := wfFrom_cons.2 ⟨Nat.le_refl _, htop', hv', hrest'⟩
  refine Nat.le_of_not_lt fun hlt => ?_
  exact read_head_ne_zero hm ((h k).trans (read_below hlt hfrom))

/-- Where the first cells agree and the lists hold the same bytes, so do the tails. -/
theorem read_tail_eq {k : Nat} {v : Byte} {m m' : Memory} (hm : Memory.wfFrom (k + 1) m = true)
    (hm' : Memory.wfFrom (k + 1) m' = true)
    (h : ∀ a, Memory.read ((k, v) :: m) a = Memory.read ((k, v) :: m') a) (a : Nat) : m.read a = m'.read a := by
  by_cases hka : k = a
  · rw [read_below (by omega) hm, read_below (by omega) hm']
  · simpa [Memory.read, hka] using h a

/-- A canonical list is determined by the bytes it gives. -/
theorem eq_of_read_eq {lo : Nat} {m m' : Memory} (hm : Memory.wfFrom lo m = true) (hm' : Memory.wfFrom lo m' = true)
    (h : ∀ a, m.read a = m'.read a) : m = m' := by
  induction m generalizing lo m' with
  | nil =>
    cases m' with
    | nil => rfl
    | cons c' m' => exact absurd (h c'.1).symm (read_head_ne_zero hm')
  | cons c m ih =>
    obtain ⟨k, v⟩ := c
    cases m' with
    | nil => exact absurd (h k) (read_head_ne_zero hm)
    | cons c' m' =>
      obtain ⟨k', v'⟩ := c'
      have hk : k = k' :=
        Nat.le_antisymm (head_le_of_read_eq hm' hm fun a => (h a).symm) (head_le_of_read_eq hm hm' h)
      subst hk
      have hv : v = v' := by simpa [Memory.read] using h k
      subst hv
      obtain ⟨-, -, -, hrest⟩ := wfFrom_cons.1 hm
      obtain ⟨-, -, -, hrest'⟩ := wfFrom_cons.1 hm'
      rw [ih hrest hrest' (read_tail_eq hrest hrest' h)]

/-- Settles O31: past 3FFFh every canonical list reads as 00h, so the lists agree at every address. -/
theorem equalBytesMeanEqualMemories : Obligations.EqualBytesMeanEqualMemories := by
  intro m m' hm hm' h
  refine eq_of_read_eq hm hm' fun a => ?_
  by_cases ha : a < 0x4000
  · exact h a ha
  · have htop : Config.memSize ≤ a := Nat.le_of_not_lt ha
    rw [read_above htop hm, read_above htop hm']

end Sys2Proof.Machine
end

section
/-! Instructions that use the stack, and the flags each instruction writes (R37, R215, R216). -/

namespace Sys2Proof.Machine

/-! ### A push and a pop as claims read them -/

/-- `SP` after a push does not wrap. -/
theorem sub_two_toNat {w : Word} (h : 2 ≤ w.toNat) : (w - 2#16).toNat = w.toNat - 2 := by
  have := w.isLt
  simp [BitVec.toNat_sub]; omega

/-- `SP` after a pop does not wrap. -/
theorem add_two_toNat {w : Word} (h : w.toNat ≤ 0x3FFE) : (w + 2#16).toNat = w.toNat + 2 := by
  simp [BitVec.toNat_add]; omega

/-- A push changes neither `IP` nor a flag. -/
theorem push16_ip_flags {s t : State} {v : Word} (h : s.push16 v = .next t) : t.ip = s.ip ∧ t.flags = s.flags := by
  obtain ⟨-, rfl⟩ := push16_eq_next.1 h
  exact ⟨rfl, rfl⟩

/-- What a push leaves, in canonical memory (R215). -/
theorem push16_pushed {s t : State} {v : Word} (hm : s.mem.wf = true) (h : s.push16 v = .next t) :
    Pushed s t v.toNat := by
  obtain ⟨⟨h2, htop⟩, rfl⟩ := push16_eq_next.1 h
  have hsp : (s.sp - 2#16).toNat = s.sp.toNat - 2 := sub_two_toNat h2
  have hin : WordIn (s.sp - 2#16) := by rw [WordIn, hsp]; omega
  have hlt : (s.sp - 2#16).toNat + 1 < Config.memSize := by simp only [Config.memSize]; omega
  rw [← hsp]
  refine ⟨rfl, ?sp, ⟨rfl, rfl, rfl, rfl⟩, wordNatAt_writeWord hm hin v, fun b hb hb1 => ?others⟩
  case sp => simp only [hsp]; omega
  case others => rw [read_writeWord hm hlt, if_neg hb1, if_neg hb]

/-- Settles O35. -/
theorem pushfAndPopfMoveFlags : Obligations.PushfAndPopfMoveFlags := by
  refine fun s => ⟨fun hm hcan => ?pushf, fun hcan => ?popf⟩
  case pushf =>
    have hpush := push16_of_can hcan s.flags.toWord
    obtain ⟨hip, hflags⟩ := push16_ip_flags hpush
    exact ⟨_, hpush, toWord_toNat s.flags ▸ push16_pushed hm hpush, hip, hflags⟩
  case popf =>
    have hpopf : exec .popf s = .next (({ s with sp := s.sp + 2#16 } : State).loadFlags (s.wordAt s.sp)) := by
      change andThen s.pop16 _ = _
      rw [pop16_of_can hcan, andThen_next]
    exact ⟨_, hpopf, wordAt_toNat s s.sp ▸ flagsFrom_ofWord _, add_two_toNat hcan, ⟨rfl, rfl, rfl, rfl⟩, rfl,
      fun _ => rfl, rfl⟩

/-! ### The flags (R37) -/

/-- A Binary operation writes at most the flags of its row. -/
theorem exec_ofBin_flags {op : BinOp} {f : BinForm} {s t : State} (h : exec (.ofBin op f) s = .next t) :
    KeepsFlagsOutside (binFlagWrites op) s.flags t.flags := by
  obtain ⟨-, -, hinterrupt, -⟩ := exec_ofBin_frame h
  cases op
  case mov =>
    rw [exec_ofBin] at h
    obtain ⟨-, -, hflags, -⟩ := move_frame h
    rw [hflags]
    exact ⟨fun _ => rfl, fun _ => rfl, fun _ => rfl, fun _ => rfl, fun _ => rfl⟩
  all_goals exact ⟨nofun, nofun, nofun, nofun, fun _ => hinterrupt⟩

/-- A Unary operation writes at most the flags of its row: INC and DEC keep `CF` (R180, R181). -/
theorem exec_ofUn_flags {op : UnOp} {f : UnForm} {s t : State} (h : exec (.ofUn op f) s = .next t) :
    KeepsFlagsOutside (unFlagWrites op) s.flags t.flags := by
  rw [exec_ofUn] at h
  obtain ⟨-, -, ⟨n, r, hflags⟩, -⟩ := unary_frame h
  rw [hflags]
  cases op
  case inc | dec => exact ⟨fun _ => rfl, nofun, nofun, nofun, fun _ => rfl⟩
  case neg | not => exact ⟨nofun, nofun, nofun, nofun, fun _ => rfl⟩

theorem execPop_flags {r : Reg16} {s t : State} (h : execPop r s = .next t) : t.flags = s.flags := by
  obtain ⟨⟨v, u⟩, hpop, h⟩ := andThen_eq_next.1 h
  obtain ⟨-, -, rfl⟩ := pop16_eq_next.1 hpop
  cases h; exact setReg16_flags _ r v

theorem execRet_flags {s t : State} (h : execRet s = .next t) : t.flags = s.flags := by
  obtain ⟨⟨v, u⟩, hpop, h⟩ := andThen_eq_next.1 h
  obtain ⟨-, -, rfl⟩ := pop16_eq_next.1 hpop
  cases h; rfl

theorem execCall_flags {addr : Word} {s t : State} (h : execCall addr s = .next t) : t.flags = s.flags := by
  obtain ⟨u, hpush, h⟩ := andThen_eq_next.1 h
  cases h; exact (push16_ip_flags hpush).2

theorem inFrom_flags {w : Size} {p : Byte} {s t : State} (h : inFrom w p s = .next t) : t.flags = s.flags := by
  rcases inFrom_eq_next h with ⟨b, rfl⟩ | ⟨v, rfl⟩ <;> rfl

theorem outTo_flags {w : Size} {p : Byte} {s t : State} (h : outTo w p s = .next t) : t.flags = s.flags := by
  rw [(outTo_writesOnlyDevices h).frame]

theorem jumpIf_flags {k : Cond} {addr : Word} {s t : State} (h : jumpIf k addr s = .next t) : t.flags = s.flags := by
  rcases jumpIf_eq_next h with rfl | rfl <;> rfl

theorem enterInterrupt_flags {id : Byte} {s t : State} (h : s.enterInterrupt id = .next t) :
    t.flags = { s.flags with interrupt := false } := by
  obtain ⟨-, u, rfl, rfl⟩ := enterInterrupt_eq_next.1 h
  rfl

/-- INT 7 pops the FLAGS word it pushed: its console output writes no memory and moves no `SP` (R250). -/
theorem execInt7_flags {s t : State} (hm : s.mem.wf = true) (h : execInt7 s = .next t) : t.flags = s.flags := by
  obtain ⟨u, hpush, h⟩ := andThen_eq_next.1 h
  obtain ⟨v, hprint, h⟩ := andThen_eq_next.1 h
  obtain ⟨⟨w, x⟩, hpop, h⟩ := andThen_eq_next.1 h
  obtain ⟨-, rfl⟩ := printBytes_eq_next.1 hprint
  obtain ⟨-, rfl, rfl⟩ := pop16_eq_next.1 hpop
  have hsaved : u.wordAt u.sp = s.flags.toWord := by
    apply BitVec.eq_of_toNat_eq
    rw [wordAt_toNat, (push16_pushed hm hpush).word]
  cases h
  calc Flags.ofWord (u.wordAt u.sp) = Flags.ofWord s.flags.toWord := by rw [hsaved]
    _ = s.flags := ofWord_toWord s.flags

/-- Settles O52: R37's table, row by row. -/
theorem unlistedFlagsUnchanged : Obligations.UnlistedFlagsUnchanged := by
  refine ⟨fun _ _ _ _ => exec_ofBin_flags, fun _ _ _ _ => exec_ofUn_flags, fun s t r addr w port => ?noFlag,
    fun s t n => ?cleared, fun s t h => ?sti, fun _ _ => execInt7_flags⟩
  case noFlag =>
    have hpush : ∀ v, s.push16 v = .next t → t.flags = s.flags := fun _ h => (push16_ip_flags h).2
    simp only [List.forall_mem_cons]
    exact ⟨hpush _, execPop_flags, hpush _, inFrom_flags, inFrom_flags, outTo_flags, outTo_flags,
      fun h => by cases h; rfl, jumpIf_flags, jumpIf_flags, jumpIf_flags, jumpIf_flags, jumpIf_flags, jumpIf_flags,
      jumpIf_flags, jumpIf_flags, execCall_flags, execRet_flags, fun h => by cases h; rfl, fun h => by cases h; rfl,
      fun h => by cases h; rfl, fun h => by cases h; rfl, List.forall_mem_nil _⟩
  case cleared =>
    simp only [List.forall_mem_cons]
    exact ⟨fun h => by cases h; rfl, enterInterrupt_flags, List.forall_mem_nil _⟩
  case sti => cases h; rfl

/-! ### Halting (R247, R255, R257) -/

/-- A halted machine answers itself, however often it is stepped (R48; log 10). -/
theorem run_halted {s : State} (h : s.status = .halted) (k : Nat) : Sys2Proof.core.run k s = .next s := by
  induction k with
  | zero => rfl
  | succ k ih =>
    have hstep : Sys2Proof.core.step s = .next s := step_halted h
    simp only [Host.Core.run, hstep]
    exact ih

/-- Settles O47. -/
theorem haltIsForGood : Obligations.HaltIsForGood := by
  rintro s i (rfl | rfl)
  · exact ⟨s.stop, rfl, rfl, run_halted rfl⟩
  · exact ⟨s.stop, rfl, rfl, run_halted rfl⟩

end Sys2Proof.Machine
end

section
/-! The decoder reads back what the encoder writes (30_encoding), and so the instruction whose encoding stands at `IP`
is the one that runs (R121, R144). -/

namespace Sys2Proof

/-! ### Fields -/

@[simp] theorem takeWord_wordBytes (v : Word) (rest : List Byte) (k : Word → List Byte → Decoded) :
    takeWord (wordBytes v ++ rest) k = k v rest :=
  congrArg (k · rest) (Machine.joinBytes_loByte_hiByte v)

@[simp] theorem takeImm_byte (v : Byte) (rest : List Byte) (k : Imm → List Byte → Decoded) :
    takeImm .byte (v :: rest) k = k (.byte v) rest := rfl

@[simp] theorem takeImm_word (v : Word) (rest : List Byte) (k : Imm → List Byte → Decoded) :
    takeImm .word (wordBytes v ++ rest) k = k (.word v) rest := takeWord_wordBytes v rest fun v rest => k (.word v) rest

@[simp] theorem takeImm_bytes (v : Imm) (rest : List Byte) (k : Imm → List Byte → Decoded) :
    takeImm v.size (v.bytes ++ rest) k = k v rest := by
  cases v with
  | byte v => exact takeImm_byte v rest k
  | word v => exact takeImm_word v rest k

@[simp] theorem reg8OfIndex_index (r : Reg8) : reg8OfIndex r.index = r := by cases r <;> rfl

@[simp] theorem reg16OfIndex_index (r : Reg16) : reg16OfIndex r.index = some r := by cases r <;> rfl

@[simp] theorem withReg_byte (r : Reg8) (k : Reg → Decoded) : withReg .byte r.index k = k (.byte r) :=
  congrArg (fun q => k (.byte q)) (reg8OfIndex_index r)

@[simp] theorem withReg_word (r : Reg16) (k : Reg → Decoded) : withReg .word r.index k = k (.word r) := by
  simp [withReg, regOfIndex]

@[simp] theorem withReg_index (r : Reg) (k : Reg → Decoded) : withReg r.size r.index k = k r := by
  cases r with
  | byte r => exact withReg_byte r k
  | word r => exact withReg_word r k

@[simp] theorem requireZero_zero (k : Decoded) : requireZero 0#3 k = k := rfl

/-! ### Encoding by class -/

theorem encode_ofBin (op : BinOp) (f : BinForm) : encode (.ofBin op f) = encodeBin op f := by
  cases op <;> cases f <;> rfl

theorem encode_ofUn (op : UnOp) (f : UnForm) : encode (.ofUn op f) = encodeUn op f := by
  cases op <;> cases f <;> rfl

theorem length_ofBin (op : BinOp) (f : BinForm) : (Instr.ofBin op f).length = f.length := by
  cases op <;> cases f <;> rfl

theorem length_ofUn (op : UnOp) (f : UnForm) : (Instr.ofUn op f).length = f.length := by
  cases op <;> cases f <;> rfl

/-- The length table gives the number of bytes the encoder writes, which the fetch window holds (R88, R143). -/
theorem encode_length (i : Instr) : (encode i).length = i.length ∧ i.length ≤ maxLength := by
  cases i using Instr.byClass
  case bin op f =>
    obtain ⟨hlen, -, hmax⟩ := Laws.EncodedLength.bin op f
    rw [encode_ofBin, length_ofBin]
    exact ⟨hlen, hmax⟩
  case un op f =>
    obtain ⟨hlen, -, hmax⟩ := Laws.EncodedLength.un op f
    rw [encode_ofUn, length_ofUn]
    exact ⟨hlen, hmax⟩
  all_goals exact ⟨rfl, Nat.le_of_ble_eq_true rfl⟩

/-! ### Format BIN -/

/-- The fields of the first byte (R127, R128). -/
theorem binFirstByte_fields {op : BinOp} {w : Size} {mm : BitVec 2} {b0 : Byte}
    (h : b0 = 0#1 ++ op.code ++ w.bit ++ mm) :
    b0.toNat ≤ 0x47 ∧ binOpOf (b0.extractLsb' 3 4) = some op ∧ sizeOfBit (b0.getLsbD 2) = w ∧
    b0.extractLsb' 0 2 = mm := by
  subst h
  cases op <;> cases w <;> revert mm <;> decide

/-- The fields of the second byte (R129). -/
theorem binSecondByte_fields (k : BitVec 2) (r s : BitVec 3) :
    (k ++ r ++ s).extractLsb' 6 2 = k ∧ (k ++ r ++ s).extractLsb' 3 3 = r ∧ (k ++ r ++ s).extractLsb' 0 3 = s := by
  revert k r s; decide

/-- Two opcode bytes of format BIN are decoded by their form (R127 to R131). -/
theorem decode_binBytes (op : BinOp) (w : Size) (mm k : BitVec 2) (r s : BitVec 3) (rest : List Byte) :
    decode (binBytes op w mm k r s ++ rest) = decodeForm op w mm (k ++ r ++ s) rest := by
  obtain ⟨hle, hop, hw, hmm⟩ := binFirstByte_fields (op := op) (w := w) (mm := mm) rfl
  simp only [binBytes, List.cons_append, List.nil_append, decode, takeByte, decodeBin, if_pos hle, hop, hw, hmm]

/-- Each of R131's forms is read back. -/
theorem decode_encodeBin (op : BinOp) (f : BinForm) (rest : List Byte) :
    decode (encodeBin op f ++ rest) = .ok (.ofBin op f) rest := by
  have hfields := binSecondByte_fields
  cases f with
  | regReg p => cases p <;> simp [encodeBin, decode_binBytes, decodeForm, hfields, regPairOfIndex]
  | regImm q => cases q <;> simp [encodeBin, decode_binBytes, decodeForm, hfields, regImmOf]
  | _ => simp [encodeBin, decode_binBytes, decodeForm, hfields]

/-! ### Format UN -/

/-- The fields of the first byte (R133). -/
theorem unByte_fields (op : UnOp) (w : Size) (x : BitVec 1) (s : BitVec 3) :
    0x80 ≤ (unByte op w (x ++ s)).toNat ∧ unOpOf ((unByte op w (x ++ s)).extractLsb' 5 2) = op ∧
    sizeOfBit ((unByte op w (x ++ s)).getLsbD 4) = w ∧ (unByte op w (x ++ s)).getLsbD 3 = x.getLsbD 0 ∧
    (unByte op w (x ++ s)).extractLsb' 0 3 = s := by
  cases op <;> cases w <;> revert x s <;> decide

/-- A first byte of format UN sends the decoder there (R140). -/
theorem decode_unByte (op : UnOp) (w : Size) (x : BitVec 1) (s : BitVec 3) (rest : List Byte) :
    decode (unByte op w (x ++ s) :: rest) = decodeUn (unByte op w (x ++ s)) rest := by
  obtain ⟨hle, -⟩ := unByte_fields op w x s
  have hnot : ∀ n, n < 0x80 → ¬ (unByte op w (x ++ s)).toNat ≤ n := fun n hn => by omega
  have hne : (unByte op w (x ++ s)).toNat ≠ 0x6A := by omega
  simp [decode, takeByte, hnot, hne]

/-- Each of R134's selectors is read back. -/
theorem decode_encodeUn (op : UnOp) (f : UnForm) (rest : List Byte) :
    decode (encodeUn op f ++ rest) = .ok (.ofUn op f) rest := by
  cases f with
  | reg r =>
    obtain ⟨-, hop, hw, hreg, hs⟩ := unByte_fields op r.size 0#1 r.index
    refine (decode_unByte op r.size 0#1 r.index rest).trans ?_
    simp only [decodeUn, hop, hw, hreg, hs]
    exact withReg_index r _
  | bx w =>
    obtain ⟨-, hop, hw, hsel, hs⟩ := unByte_fields op w 1#1 0#3
    refine (decode_unByte op w 1#1 0#3 rest).trans ?_
    simp only [decodeUn, hop, hw, hsel, hs]
    rfl
  | mem w addr =>
    obtain ⟨-, hop, hw, hsel, hs⟩ := unByte_fields op w 1#1 1#3
    refine (decode_unByte op w 1#1 1#3 (wordBytes addr ++ rest)).trans ?_
    simp only [decodeUn, hop, hw, hsel, hs, takeWord_wordBytes]
    rfl

/-! ### The other formats -/

/-! Format STK (R136). -/

theorem decode_push (r : Reg16) (rest : List Byte) : decode (encode (.push r) ++ rest) = .ok (.push r) rest := by
  cases r <;> rfl

theorem decode_pop (r : Reg16) (rest : List Byte) : decode (encode (.pop r) ++ rest) = .ok (.pop r) rest := by
  cases r <;> rfl

/-- A number without a row of its own is that of `INT n` (R138, R245). -/
theorem decode_intN {n : Byte} (h : WellFormed (.intN n)) (rest : List Byte) :
    decode (encode (.intN n) ++ rest) = .ok (.intN n) rest := by
  obtain ⟨h0, h3, h6, h7⟩ : n ≠ 0#8 ∧ n ≠ 3#8 ∧ n ≠ 6#8 ∧ n ≠ 7#8 := by
    simpa [WellFormed, Instr.wf, specialInts] using h
  change decodeInt (n :: rest) = _
  simp only [decodeInt, takeByte, if_neg h0, if_neg h3, if_neg h6, if_neg h7]

/-- Decoding the encoding of a well-formed instruction gives it back, whatever follows. -/
theorem decode_encode_append {i : Instr} (h : WellFormed i) (rest : List Byte) :
    decode (encode i ++ rest) = .ok i rest := by
  cases i using Instr.byClass
  case bin op f => rw [encode_ofBin]; exact decode_encodeBin op f rest
  case un op f => rw [encode_ofUn]; exact decode_encodeUn op f rest
  case push r => exact decode_push r rest
  case pop r => exact decode_pop r rest
  case intN n => exact decode_intN h rest
  case jmp addr | call addr | jz addr | jnz addr | jc addr | jnc addr | js addr | jns addr | jo addr | jno addr =>
    simp [encode, decode, takeByte, decodeJump]
  case inPort w _ | inDx w | outPort w _ | outDx w => cases w <;> rfl
  all_goals rfl

namespace Machine

/-! ### The encoding at `IP` -/

/-- Bytes that stand in memory from `a` on are the first bytes of every fetch window there that is long enough. -/
theorem fetchBytes_eq_append {m : Memory} {a : Word} {bs : List Byte} {n : Nat} (hin : a.toNat + bs.length ≤ 0x4000)
    (hread : ∀ k : Nat, k < bs.length → bs[k]? = some (m.read (a.toNat + k))) (hn : bs.length ≤ n) :
    ∃ rest, fetchBytes m a n = bs ++ rest := by
  induction bs generalizing a n with
  | nil => exact ⟨_, rfl⟩
  | cons b bs ih =>
    simp only [List.length_cons] at hin hread hn
    obtain ⟨n, rfl⟩ := Nat.exists_eq_add_of_le' (Nat.le_trans (Nat.le_add_left 1 _) hn)
    have hbyte : b = m.read a.toNat := by simpa using hread 0 (by omega)
    have hsucc : (a + 1#16).toNat = a.toNat + 1 := by simp [BitVec.toNat_add]; omega
    have hlater : ∀ k : Nat, k < bs.length → bs[k]? = some (m.read ((a + 1#16).toNat + k)) := fun k hk => by
      have hk1 := hread (k + 1) (by omega)
      rwa [List.getElem?_cons_succ, show a.toNat + (k + 1) = (a + 1#16).toNat + k by omega] at hk1
    obtain ⟨rest, hrest⟩ := ih (n := n) (by omega) hlater (by omega)
    have hrange : inRange a = true := (inRange_iff a).2 (by simp only [ByteIn]; omega)
    exact ⟨rest, by simp only [fetchBytes, hrange, if_true, hrest, hbyte, List.cons_append]⟩

/-- Settles O11: the fetch window begins with the encoding, which decodes to the instruction. -/
theorem stepRunsEncodedInstruction : Obligations.StepRunsEncodedInstruction := by
  intro s t i hs hb hwf hin hread
  obtain ⟨hlen, hmax⟩ := encode_length i
  obtain ⟨rest, hfetch⟩ := fetchBytes_eq_append hin hread (hlen ▸ hmax)
  have hdecode : decode (fetchBytes t.mem t.ip maxLength) = .ok i rest := by
    rw [hfetch]; exact decode_encode_append hwf rest
  have hip : BitVec.ofNat 16 (t.ip.toNat + (encode i).length) = t.ip + BitVec.ofNat 16 i.length := by
    rw [hlen, BitVec.ofNat_add, BitVec.ofNat_toNat, BitVec.setWidth_eq]
  rw [hip]
  exact stepWith_of_decode (enc := .standard) hs hb hdecode

end Machine

end Sys2Proof
end

section
/-! Memory accesses (20_memory R83 to R85): the primitives of both widths, and the operands and fetches that leave
memory (R81, R122). -/

namespace Sys2Proof.Machine

/-! ### The primitives (R84, R85) -/

/-- A byte write gives its byte back, and changes no other byte and no other state. -/
theorem memWrite8_frame {s : State} {a : Word} (hm : s.mem.wf = true) (h : ByteIn a) (v : Byte) :
    ∃ t, s.memWrite8 a v = .next t ∧ t.byteAt a = v ∧ SameMemoryBut1 s t a ∧ t = { s with mem := t.mem } := by
  refine ⟨_, memWrite8_of_in h v, ?written, fun b hb => ?others, rfl⟩
  case written => exact (read_write hm _ _ v).trans (if_pos rfl)
  case others => exact (read_write hm _ b v).trans (if_neg hb)

/-- A word write puts its low byte first, and changes no other byte and no other state. -/
theorem memWrite16_frame {s : State} {a : Word} (hm : s.mem.wf = true) (h : WordIn a) (v : Word) :
    ∃ t, s.memWrite16 a v = .next t ∧
      (t.mem.read a.toNat).toNat = v.toNat % 256 ∧ (t.mem.read (a.toNat + 1)).toNat = v.toNat / 256 ∧
      SameMemoryBut2 s t a ∧ t = { s with mem := t.mem } := by
  have hlt : a.toNat + 1 < Config.memSize := by simp only [Config.memSize]; omega
  refine ⟨_, memWrite16_of_in h v, ?low, ?high, fun b hb hb1 => ?others, rfl⟩
  case low => simp [read_writeWord hm hlt]
  case high => simp [read_writeWord hm hlt]
  case others => rw [read_writeWord hm hlt, if_neg hb1, if_neg hb]

/-- Settles O29. -/
theorem memoryPrimitivesFollowR84 : Obligations.MemoryPrimitivesFollowR84 := fun _ _ =>
  ⟨memRead8_of_in, memRead8_of_out, memRead16_of_in, memRead16_of_out, fun v hm h => memWrite8_frame hm h v,
    fun v h => memWrite8_of_out h v, fun v hm h => memWrite16_frame hm h v, fun v h => memWrite16_of_out h v⟩

theorem ofNat_mod_eq_loByte (w : Word) : BitVec.ofNat 8 (w.toNat % 256) = loByte w := by
  apply BitVec.eq_of_toNat_eq; simp

theorem ofNat_div_eq_hiByte (w : Word) : BitVec.ofNat 8 (w.toNat / 256) = hiByte w := by
  have := w.isLt
  apply BitVec.eq_of_toNat_eq; simp; omega

/-- Two byte writes, the low address first, are the write of the word of both bytes (R83). -/
theorem write_write_succ (m : Memory) (a : Nat) (b0 b1 : Byte) :
    (m.write a b0).write (a + 1) b1 = m.writeWord a (joinBytes b0 b1) := by
  rw [Memory.writeWord, loByte_joinBytes, hiByte_joinBytes]

/-- Settles O30: both byte reads are reads after a word write, and two byte writes are one. -/
theorem mixedWidthAccessesAgree : Obligations.MixedWidthAccessesAgree := by
  intro s t u a hm ha
  have hlt : a.toNat + 1 < Config.memSize := by simp only [Config.memSize]; omega
  have hsucc : (a + 1#16).toNat = a.toNat + 1 := toNat_succ ha
  have hlow : ByteIn a := by omega
  have hhigh : ByteIn (a + 1#16) := by omega
  refine ⟨fun v hw => ?byteReads, fun b0 b1 hw0 hw1 => ?wordRead⟩
  case byteReads =>
    obtain ⟨-, rfl⟩ := memWrite16_eq_next.1 hw
    rw [memRead8_of_in hlow, memRead8_of_in hhigh, ofNat_mod_eq_loByte, ofNat_div_eq_hiByte]
    simp [State.byteAt, hsucc, read_writeWord hm hlt]
  case wordRead =>
    obtain ⟨-, rfl⟩ := memWrite8_eq_next.1 hw0
    obtain ⟨-, rfl⟩ := memWrite8_eq_next.1 hw1
    simp only [hsucc, write_write_succ]
    rw [memRead16_of_in ha, State.wordAt, wordNatAt_writeWord hm ha, joinBytes_toNat]

/-! ### Operands outside memory (R84, R145) -/

theorem readSrc8_reg (s : State) (r : Reg8) : s.readSrc8 (.loc (.reg r)) = .next (s.reg8 r) := rfl

theorem readSrc16_reg (s : State) (r : Reg16) : s.readSrc16 (.loc (.reg r)) = .next (s.reg16 r) := rfl

/-- A byte source outside memory faults in every Binary operation. -/
theorem binBody_byte_srcOut {s : State} {ea : Word} (h : ¬ ByteIn ea) (op : BinOp) (d : Reg8) :
    binBody op (.byte (.reg d) (.loc (.mem ea))) s = .fault (.memoryOutOfRange s.console) := by
  have hdst : s.readLoc8 (.reg d) = .next (s.reg8 d) := rfl
  have hread : s.readSrc8 (.loc (.mem ea)) = .fault (.memoryOutOfRange s.console) := memRead8_of_out h
  cases op
  case mov => simp only [binBody, move, hread, andThen_fault]
  case cmp => simp only [binBody, compareOnly, hdst, andThen_next, hread, andThen_fault]
  all_goals simp only [binBody, binary, hdst, andThen_next, hread, andThen_fault]

/-- A word source outside memory faults in every Binary operation. -/
theorem binBody_word_srcOut {s : State} {ea : Word} (h : ¬ WordIn ea) (op : BinOp) (d : Reg16) :
    binBody op (.word (.reg d) (.loc (.mem ea))) s = .fault (.memoryOutOfRange s.console) := by
  have hdst : s.readLoc16 (.reg d) = .next (s.reg16 d) := rfl
  have hread : s.readSrc16 (.loc (.mem ea)) = .fault (.memoryOutOfRange s.console) := memRead16_of_out h
  cases op
  case mov => simp only [binBody, move, hread, andThen_fault]
  case cmp => simp only [binBody, compareOnly, hdst, andThen_next, hread, andThen_fault]
  all_goals simp only [binBody, binary, hdst, andThen_next, hread, andThen_fault]

/-- A byte destination outside memory faults in every Binary operation whose source can be read: MOV at the write, the
others at the read (R173, R211). -/
theorem binBody_byte_dstOut {s : State} {ea : Word} (h : ¬ ByteIn ea) (op : BinOp) {src : Src8} {v : Byte}
    (hsrc : s.readSrc8 src = .next v) :
    binBody op (.byte (.mem ea) src) s = .fault (.memoryOutOfRange s.console) := by
  have hread : s.readLoc8 (.mem ea) = .fault (.memoryOutOfRange s.console) := memRead8_of_out h
  have hwrite : s.writeLoc8 (.mem ea) v = .fault (.memoryOutOfRange s.console) := memWrite8_of_out h v
  cases op
  case mov => simp only [binBody, move, hsrc, andThen_next, hwrite]
  case cmp => simp only [binBody, compareOnly, hread, andThen_fault]
  all_goals simp only [binBody, binary, hread, andThen_fault]

/-- A word destination outside memory faults in every Binary operation whose source can be read. -/
theorem binBody_word_dstOut {s : State} {ea : Word} (h : ¬ WordIn ea) (op : BinOp) {src : Src16} {v : Word}
    (hsrc : s.readSrc16 src = .next v) :
    binBody op (.word (.mem ea) src) s = .fault (.memoryOutOfRange s.console) := by
  have hread : s.readLoc16 (.mem ea) = .fault (.memoryOutOfRange s.console) := memRead16_of_out h
  have hwrite : s.writeLoc16 (.mem ea) v = .fault (.memoryOutOfRange s.console) := memWrite16_of_out h v
  cases op
  case mov => simp only [binBody, move, hsrc, andThen_next, hwrite]
  case cmp => simp only [binBody, compareOnly, hread, andThen_fault]
  all_goals simp only [binBody, binary, hread, andThen_fault]

theorem unary_byte_out {s : State} {ea : Word} (h : ¬ ByteIn ea) (op : UnOp) :
    unary op (.byte (.mem ea)) s = .fault (.memoryOutOfRange s.console) := by
  have hread : s.readLoc8 (.mem ea) = .fault (.memoryOutOfRange s.console) := memRead8_of_out h
  simp only [unary, hread, andThen_fault]

theorem unary_word_out {s : State} {ea : Word} (h : ¬ WordIn ea) (op : UnOp) :
    unary op (.word (.mem ea)) s = .fault (.memoryOutOfRange s.console) := by
  have hread : s.readLoc16 (.mem ea) = .fault (.memoryOutOfRange s.console) := memRead16_of_out h
  simp only [unary, hread, andThen_fault]

/-- Settles O27: through the shared bodies, where `[BX]` and a direct address are one operand form (R130). -/
theorem memoryOperandsOutsideFault : Obligations.MemoryOperandsOutsideFault := by
  intro s op un a d8 d16 v8 v16
  simp only [exec_ofBin, exec_ofUn]
  have hbyte : ∀ ea : Word, ¬ ByteIn ea →
      binBody op (.byte (.reg d8) (.loc (.mem ea))) s = .fault (.memoryOutOfRange s.console) ∧
      binBody op (.byte (.mem ea) (.loc (.reg d8))) s = .fault (.memoryOutOfRange s.console) ∧
      binBody op (.byte (.mem ea) (.imm v8)) s = .fault (.memoryOutOfRange s.console) ∧
      unary un (.byte (.mem ea)) s = .fault (.memoryOutOfRange s.console) := fun _ h =>
    ⟨binBody_byte_srcOut h op d8, binBody_byte_dstOut h op (readSrc8_reg s d8), binBody_byte_dstOut h op rfl,
      unary_byte_out h un⟩
  have hword : ∀ ea : Word, ¬ WordIn ea →
      binBody op (.word (.reg d16) (.loc (.mem ea))) s = .fault (.memoryOutOfRange s.console) ∧
      binBody op (.word (.mem ea) (.loc (.reg d16))) s = .fault (.memoryOutOfRange s.console) ∧
      binBody op (.word (.mem ea) (.imm v16)) s = .fault (.memoryOutOfRange s.console) ∧
      unary un (.word (.mem ea)) s = .fault (.memoryOutOfRange s.console) := fun _ h =>
    ⟨binBody_word_srcOut h op d16, binBody_word_dstOut h op (readSrc16_reg s d16), binBody_word_dstOut h op rfl,
      unary_word_out h un⟩
  exact ⟨hbyte a, hword a, hbyte s.bx, hword s.bx⟩

end Sys2Proof.Machine
end

section
/-! The decoder reads from the front (30_encoding R121, R141): its answer on more bytes is its answer on fewer, unless
those end too early.  So the beginning of an encoding is truncated, and a fetch that runs off the top of memory is a
fetch outside it (R122). -/

namespace Sys2Proof

/-! ### More bytes -/

/-- `d'` is what `d` becomes when `more` stands behind the bytes that gave `d`: the same instruction or the same
rejection; bytes that ended too early may become anything. -/
def Decoded.ExtendsBy (more : List Byte) (d d' : Decoded) : Prop :=
  match d with
  | .ok i rest => d' = .ok i (rest ++ more)
  | .truncated => True
  | .illegal why => d' = .illegal why

theorem extendsBy_ok (more : List Byte) (i : Instr) (rest : List Byte) :
    (Decoded.ok i rest).ExtendsBy more (.ok i (rest ++ more)) := rfl

theorem extendsBy_illegal (more : List Byte) (why : Illegal) :
    (Decoded.illegal why).ExtendsBy more (.illegal why) := rfl

theorem extendsBy_truncated (more : List Byte) (d : Decoded) : Decoded.truncated.ExtendsBy more d := trivial

theorem extendsBy_ite {more : List Byte} {c : Prop} [Decidable c] {d d' e e' : Decoded} (hd : d.ExtendsBy more d')
    (he : e.ExtendsBy more e') : (if c then d else e).ExtendsBy more (if c then d' else e') := by
  by_cases hc : c
  · rwa [if_pos hc, if_pos hc]
  · rwa [if_neg hc, if_neg hc]

/-! ### Fields -/

theorem takeByte_extendsBy {more : List Byte} {k : Byte → List Byte → Decoded}
    (hk : ∀ b rest, (k b rest).ExtendsBy more (k b (rest ++ more))) (bs : List Byte) :
    (takeByte bs k).ExtendsBy more (takeByte (bs ++ more) k) := by
  cases bs with
  | nil => exact extendsBy_truncated more _
  | cons b rest => exact hk b rest

theorem takeWord_extendsBy {more : List Byte} {k : Word → List Byte → Decoded}
    (hk : ∀ v rest, (k v rest).ExtendsBy more (k v (rest ++ more))) (bs : List Byte) :
    (takeWord bs k).ExtendsBy more (takeWord (bs ++ more) k) := by
  match bs with
  | [] => exact extendsBy_truncated more _
  | [_] => exact extendsBy_truncated more _
  | lo :: hi :: rest => exact hk (joinBytes lo hi) rest

theorem takeImm_extendsBy {more : List Byte} {k : Imm → List Byte → Decoded}
    (hk : ∀ v rest, (k v rest).ExtendsBy more (k v (rest ++ more))) (w : Size) (bs : List Byte) :
    (takeImm w bs k).ExtendsBy more (takeImm w (bs ++ more) k) := by
  cases w with
  | byte => exact takeByte_extendsBy (fun v => hk (.byte v)) bs
  | word => exact takeWord_extendsBy (fun v => hk (.word v)) bs

theorem withReg_extendsBy {more : List Byte} {k k' : Reg → Decoded} (hk : ∀ r, (k r).ExtendsBy more (k' r))
    (w : Size) (i : BitVec 3) : (withReg w i k).ExtendsBy more (withReg w i k') := by
  unfold withReg
  cases regOfIndex w i with
  | none => exact extendsBy_illegal more _
  | some r => exact hk r

theorem requireZero_extendsBy {more : List Byte} {d d' : Decoded} (h : d.ExtendsBy more d') (f : BitVec 3) :
    (requireZero f d).ExtendsBy more (requireZero f d') := extendsBy_ite h (extendsBy_illegal more _)

/-! ### Formats -/

/-- The cases are R131's pairs (mm, k) in the order of the table, and the pairs it does not list. -/
theorem decodeForm_extendsBy (op : BinOp) (w : Size) (mm : BitVec 2) (b1 : Byte) (rest more : List Byte) :
    (decodeForm op w mm b1 rest).ExtendsBy more (decodeForm op w mm b1 (rest ++ more)) := by
  have hok := extendsBy_ok more
  simp only [decodeForm]
  split
  case h_1 =>
    cases regPairOfIndex w (b1.extractLsb' 3 3) (b1.extractLsb' 0 3) with
    | none => exact extendsBy_illegal more _
    | some p => exact hok _ _
  case h_2 | h_4 =>
    exact requireZero_extendsBy (withReg_extendsBy (fun _ => hok _ _) _ _) _
  case h_3 | h_5 =>
    exact requireZero_extendsBy (withReg_extendsBy (fun _ => takeWord_extendsBy (fun _ _ => hok _ _) _) _ _) _
  case h_6 =>
    refine requireZero_extendsBy (withReg_extendsBy (fun d => takeImm_extendsBy (fun v _ => ?_) _ _) _ _) _
    cases regImmOf d v with
    | none => exact extendsBy_illegal more _
    | some q => exact hok _ _
  case h_7 =>
    exact requireZero_extendsBy (requireZero_extendsBy (takeImm_extendsBy (fun _ _ => hok _ _) _ _) _) _
  case h_8 =>
    exact requireZero_extendsBy (requireZero_extendsBy
      (takeWord_extendsBy (fun _ _ => takeImm_extendsBy (fun _ _ => hok _ _) _ _) _) _) _
  case h_9 => exact extendsBy_illegal more _

theorem decodeBin_extendsBy (b0 : Byte) (rest more : List Byte) :
    (decodeBin b0 rest).ExtendsBy more (decodeBin b0 (rest ++ more)) := by
  unfold decodeBin
  cases binOpOf (b0.extractLsb' 3 4) with
  | none => exact extendsBy_illegal more _
  | some op => exact takeByte_extendsBy (fun b1 rest => decodeForm_extendsBy op _ _ b1 rest more) rest

theorem decodeZero_extendsBy (b0 : Byte) (rest more : List Byte) :
    (decodeZero b0 rest).ExtendsBy more (decodeZero b0 (rest ++ more)) := by
  unfold decodeZero
  split <;> exact extendsBy_ok more _ _

theorem decodeStack_extendsBy (b0 : Byte) (rest more : List Byte) :
    (decodeStack b0 rest).ExtendsBy more (decodeStack b0 (rest ++ more)) := by
  unfold decodeStack
  cases reg16OfIndex (b0.extractLsb' 0 3) with
  | none => exact extendsBy_illegal more _
  | some r => exact extendsBy_ok more _ _

theorem decodeJump_extendsBy (b0 : Byte) (rest more : List Byte) :
    (decodeJump b0 rest).ExtendsBy more (decodeJump b0 (rest ++ more)) := by
  refine takeWord_extendsBy (fun addr rest => ?_) rest
  split <;> exact extendsBy_ok more _ _

theorem decodeInt_extendsBy (rest more : List Byte) :
    (decodeInt rest).ExtendsBy more (decodeInt (rest ++ more)) := by
  have hok := extendsBy_ok more
  refine takeByte_extendsBy (fun n rest => ?_) rest
  exact extendsBy_ite (hok _ _) (extendsBy_ite (hok _ _) (extendsBy_ite (hok _ _) (extendsBy_ite (hok _ _) (hok _ _))))

theorem decodeIo_extendsBy (b0 : Byte) (rest more : List Byte) :
    (decodeIo b0 rest).ExtendsBy more (decodeIo b0 (rest ++ more)) :=
  extendsBy_ite (extendsBy_ok more _ _) (takeByte_extendsBy (fun _ _ => extendsBy_ok more _ _) rest)

theorem decodeUn_extendsBy (b0 : Byte) (rest more : List Byte) :
    (decodeUn b0 rest).ExtendsBy more (decodeUn b0 (rest ++ more)) := by
  have hok := extendsBy_ok more
  exact extendsBy_ite (withReg_extendsBy (fun _ => hok _ _) _ _) (extendsBy_ite (hok _ _)
    (extendsBy_ite (takeWord_extendsBy (fun _ _ => hok _ _) rest) (extendsBy_illegal more _)))

/-- An instruction or a rejection decoded from some bytes is also decoded when more bytes follow (R141). -/
theorem decode_extendsBy (bs more : List Byte) : (decode bs).ExtendsBy more (decode (bs ++ more)) := by
  have hreserved := extendsBy_illegal more .reservedFirstByte
  refine takeByte_extendsBy (fun b0 rest => ?_) bs
  exact extendsBy_ite (decodeBin_extendsBy b0 rest more) <| extendsBy_ite (decodeZero_extendsBy b0 rest more) <|
    extendsBy_ite (decodeStack_extendsBy b0 rest more) <| extendsBy_ite (decodeJump_extendsBy b0 rest more) <|
    extendsBy_ite (decodeInt_extendsBy rest more) <| extendsBy_ite hreserved <|
    extendsBy_ite (decodeIo_extendsBy b0 rest more) <| extendsBy_ite hreserved <|
    decodeUn_extendsBy b0 rest more

/-- The beginning of an encoding is truncated: an instruction found in it would leave the missing bytes over. -/
theorem decode_truncated_of_encode_eq {i : Instr} {bs more : List Byte} (h : WellFormed i) (hmore : more ≠ [])
    (hbs : encode i = bs ++ more) : decode bs = .truncated := by
  have hext := decode_extendsBy bs more
  have hwhole : decode (bs ++ more) = .ok i [] := by
    rw [← hbs, ← List.append_nil (encode i)]; exact decode_encode_append h []
  rw [hwhole] at hext
  cases hd : decode bs with
  | truncated => rfl
  | illegal why => rw [hd] at hext; cases hext
  | ok j rest =>
    rw [hd] at hext
    have hnil : rest ++ more = [] := (Decoded.ok.inj hext).2.symm
    exact absurd (List.append_eq_nil_iff.1 hnil).2 hmore

namespace Machine

/-! ### The fetch at the top of memory -/

/-- Past memory the fetch window is empty (R121). -/
theorem fetchBytes_outside (m : Memory) {a : Word} (h : ¬ ByteIn a) (n : Nat) : fetchBytes m a n = [] := by
  rw [← inRange_iff] at h
  cases n with
  | zero => rfl
  | succ n => simp only [fetchBytes, if_neg h]

/-- Where bytes standing in memory from `a` on would run past 3FFFh, a fetch window there is a proper beginning of
them. -/
theorem eq_fetchBytes_append {m : Memory} {a : Word} {bs : List Byte} {n : Nat} (htop : a.toNat ≤ 0x4000)
    (hout : 0x4000 < a.toNat + bs.length)
    (hread : ∀ k : Nat, a.toNat + k ≤ 0x3FFF → bs[k]? = some (m.read (a.toNat + k))) (hn : bs.length ≤ n) :
    ∃ more, more ≠ [] ∧ bs = fetchBytes m a n ++ more := by
  induction bs generalizing a n with
  | nil => simp only [List.length_nil] at hout; omega
  | cons b bs ih =>
    by_cases hin : ByteIn a
    · simp only [List.length_cons] at hout hn
      obtain ⟨n, rfl⟩ := Nat.exists_eq_add_of_le' (Nat.le_trans (Nat.le_add_left 1 _) hn)
      have hbyte : b = m.read a.toNat := by simpa using hread 0 hin
      have hsucc : (a + 1#16).toNat = a.toNat + 1 := by simp [BitVec.toNat_add]; omega
      have hlater : ∀ k : Nat, (a + 1#16).toNat + k ≤ 0x3FFF → bs[k]? = some (m.read ((a + 1#16).toNat + k)) :=
        fun k hk => by
          have hk1 := hread (k + 1) (by omega)
          rwa [List.getElem?_cons_succ, show a.toNat + (k + 1) = (a + 1#16).toNat + k by omega] at hk1
      obtain ⟨more, hne, hmore⟩ := ih (a := a + 1#16) (n := n) (by omega) (by omega) hlater (by omega)
      have hrange : inRange a = true := (inRange_iff a).2 hin
      exact ⟨more, hne, by simp only [fetchBytes, hrange, if_true, List.cons_append, ← hmore, hbyte]⟩
    · exact ⟨b :: bs, List.cons_ne_nil b bs, by rw [fetchBytes_outside m hin, List.nil_append]⟩

/-- Past the boundary, bytes at `IP` that end too early end the run with `memory-out-of-range` (R122). -/
theorem stepWith_of_truncated {enc : InstrEncoding} {s t : State} (hs : Running s) (hb : boundary s = .next t)
    (hd : enc.decode (fetchBytes t.mem t.ip enc.maxLength) = .truncated) :
    stepWith enc s = .fault (.memoryOutOfRange t.console) := by
  have hf : fetchDecodeWith enc t = .fault (.memoryOutOfRange t.console) := by simp only [fetchDecodeWith, hd]
  rw [stepWith_of_boundary_next hs hb, hf, andThen_fault]

/-- Settles O9: in both cases the fetch window is truncated, as empty or as the beginning of an encoding. -/
theorem fetchPastMemoryFaults : Obligations.FetchPastMemoryFaults := by
  refine fun s t hs hb => ⟨fun hip => ?outside, fun i hwf htop hout hread => ?cut⟩
  case outside =>
    have hwindow : fetchBytes t.mem t.ip maxLength = [] := fetchBytes_outside t.mem (by omega) maxLength
    have hd : decode (fetchBytes t.mem t.ip maxLength) = .truncated := by rw [hwindow]; rfl
    exact stepWith_of_truncated (enc := .standard) hs hb hd
  case cut =>
    obtain ⟨hlen, hmax⟩ := encode_length i
    obtain ⟨more, hne, hmore⟩ := eq_fetchBytes_append (n := maxLength) (by omega) hout hread (by omega)
    exact stepWith_of_truncated (enc := .standard) hs hb (decode_truncated_of_encode_eq hwf hne hmore)

end Machine

end Sys2Proof
end

section
/-! The I/O space (20_memory R92 to R98): the port multiplexer against R93's table by number, the instructions IN and OUT
(44_io), and the two directions of the PIO's ports (R97, R288). -/

namespace Sys2Proof.Machine

/-! ### The table's offsets -/

/-- An offset is the difference of the port and the base, mod 256. -/
theorem portOffset_eq_sub (base p : Byte) : portOffset base p.toNat = (p - base).toNat := by
  rw [portOffset, BitVec.toNat_sub, Nat.add_comm]

theorem eq_base_iff {base p : Byte} : p = base ↔ portOffset base p.toNat = 0 := by
  rw [portOffset_eq_sub]
  bv_omega

/-- A port test of the model is an offset of the table. -/
theorem eq_base_add_iff {base p : Byte} {k : Nat} (hk : k < 256) :
    p = base + BitVec.ofNat 8 k ↔ portOffset base p.toNat = k := by
  rw [portOffset_eq_sub]
  bv_omega

theorem eq_ofNat_iff {p : Byte} {k : Nat} (hk : k < 256) : p = BitVec.ofNat 8 k ↔ p.toNat = k := by
  bv_omega

/-- A write to DATA while BUSY is dropped; otherwise it starts the printer (R96). -/
theorem writeDevice_hsData (s : State) (b : Byte) :
    s.writeDevice .hsData b =
      if s.hs.state.getLsbD 0 = false then { s with hs := { data := b, state := s.hs.state ||| 1#8 } } else s := by
  cases hbusy : s.hs.state.getLsbD 0 <;> simp only [State.writeDevice, Handshake.busy, hbusy] <;> rfl

/-- R93's row of port `p`: the column "CPU read returns" is the read of the selected register, 00h where the port is
unmapped; the column "CPU write of byte b does" is its write, nothing where the port is unmapped. -/
theorem portTable_eq (s : State) (p b : Byte) :
    portValue s p.toNat = (deviceReg s.params p).elim 0x00#8 s.readDevice ∧
    portWritten s p.toNat b = (deviceReg s.params p).elim s (s.writeDevice · b) := by
  have hdata : p = Config.hsBase ↔ p.toNat = 0x40 := eq_ofNat_iff (by decide)
  have hstate : p = Config.hsBase + 1#8 ↔ p.toNat = 0x41 := eq_ofNat_iff (k := 0x41) (by decide)
  have hbase {base : Byte} : p = base ↔ portOffset base p.toNat = 0 := eq_base_iff
  have hoffset {base : Byte} {k : Nat} (hk : k < 256) := eq_base_add_iff (base := base) (p := p) hk
  unfold deviceReg
  simp only [hdata, hstate, hoffset, Nat.reduceLT]
  simp only [hbase]
  unfold portValue portWritten
  generalize portOffset s.params.picBase p.toNat = pic, portOffset s.params.timerBase p.toNat = timer,
    portOffset s.params.pioBase p.toNat = pio
  generalize p.toNat = n
  match pic with
  | 0 | 1 | 2 | 3 | 4 | 5 | 6 | 7 | 8 | 9 | 10 | 11 => exact ⟨rfl, rfl⟩
  | pic + 12 =>
  match timer with
  | 0 | 1 => exact ⟨rfl, rfl⟩
  | timer + 2 =>
  match pio with
  | 0 | 1 | 2 | 3 => exact ⟨rfl, rfl⟩
  | pio + 4 =>
  by_cases h40 : n = 0x40
  · subst h40; exact ⟨rfl, (writeDevice_hsData s b).symm⟩
  by_cases h41 : n = 0x41
  · subst h41; exact ⟨rfl, rfl⟩
  simp [h40, h41]

/-! ### Port accesses (R95, R96, R98) -/

theorem ioRead_of_allowed {s : State} {p : Byte} (h : PortAllowed s p .read) :
    s.ioRead p = .next (portValue s p.toNat) := by
  refine ioRead_eq_next.2 ⟨ioInvalid_eq_false_iff.2 h, ?_⟩
  rw [(portTable_eq s p 0#8).1]
  cases deviceReg s.params p <;> rfl

theorem ioWrite_of_allowed {s : State} {p : Byte} (h : PortAllowed s p .write) (b : Byte) :
    s.ioWrite p b = .next (portWritten s p.toNat b) := by
  refine ioWrite_eq_next.2 ⟨ioInvalid_eq_false_iff.2 h, ?_⟩
  rw [(portTable_eq s p b).2]
  cases deviceReg s.params p <;> rfl

theorem ioInvalid_of_barred {s : State} {p : Byte} {dir : IoDir} (h : ¬ PortAllowed s p dir) :
    s.ioInvalid p dir = true := by
  rwa [← ioInvalid_eq_false_iff, Bool.not_eq_false] at h

theorem ioRead_of_barred {s : State} {p : Byte} (h : ¬ PortAllowed s p .read) :
    s.ioRead p = .fault (.ioInvalidDeviceState s.console) := by
  rw [State.ioRead, if_pos (ioInvalid_of_barred h)]

theorem ioWrite_of_barred {s : State} {p : Byte} (h : ¬ PortAllowed s p .write) (b : Byte) :
    s.ioWrite p b = .fault (.ioInvalidDeviceState s.console) := by
  rw [State.ioWrite, if_pos (ioInvalid_of_barred h)]

/-- Settles O37. -/
theorem portsFollowTheTable : Obligations.PortsFollowTheTable := fun _ _ b =>
  ⟨ioRead_of_allowed, fun h => ioWrite_of_allowed h b, ioRead_of_barred, fun h => ioWrite_of_barred h b⟩

/-! ### IN and OUT (R225 to R228) -/

theorem add_one_eq_nextPort (p : Byte) : p + 1#8 = nextPort p := by
  unfold nextPort
  bv_omega

/-- The port an instruction takes from DX is the low byte of DX (R226). -/
theorem dxPort_eq {s : State} {port : Byte} (h : port.toNat = s.dx.toNat % 256) : s.dxPort = port :=
  BitVec.eq_of_toNat_eq ((loByte_toNat s.dx).trans h.symm)

theorem reg8_al_eq_ofNat (s : State) : s.reg8 .al = BitVec.ofNat 8 s.ax.toNat := by
  apply BitVec.eq_of_toNat_eq
  rw [BitVec.toNat_ofNat]
  exact loByte_toNat s.ax

/-- A byte register written. -/
theorem setReg8_only (s : State) (d : Reg8) (v : Byte) : OnlyReg8 s (s.setReg8 d v) d where
  outside := by cases d <;> rfl
  ip := setReg8_ip s d v
  memory a := by rw [setReg8_mem]
  sp := setReg8_sp s d v
  others r hr := by rw [reg8_setReg8, if_neg hr]

/-- A word register written. -/
theorem setReg16_only (s : State) (d : Reg16) (v : Word) : OnlyReg16 s (s.setReg16 d v) d where
  outside := by cases d <;> rfl
  ip := setReg16_ip s d v
  memory a := by rw [setReg16_mem]
  others r hr := by rw [reg16_setReg16, if_neg hr]

/-- IN of a byte from an allowed port (R227). -/
theorem inFrom_byte {s : State} {p : Byte} (h : PortAllowed s p .read) :
    ∃ t, inFrom .byte p s = .next t ∧ OnlyReg8 s t .al ∧ t.reg8 .al = portValue s p.toNat ∧ t.flags = s.flags := by
  refine ⟨s.setReg8 .al (portValue s p.toNat), ?result, setReg8_only s .al _, ?value, setReg8_flags s .al _⟩
  case result => rw [inFrom, ioRead_of_allowed h, andThen_next]
  case value => rw [reg8_setReg8, if_pos rfl]

/-- IN of a word from two allowed ports: the low byte is the first (R225, R227). -/
theorem inFrom_word {s : State} {p : Byte} (h : PortAllowed s p .read) (h' : PortAllowed s (nextPort p) .read) :
    ∃ t, inFrom .word p s = .next t ∧ OnlyReg16 s t .ax ∧ t.flags = s.flags ∧
      t.ax.toNat = (portValue s p.toNat).toNat + 256 * (portValue s (nextPort p).toNat).toNat := by
  refine ⟨s.setReg16 .ax (joinBytes (portValue s p.toNat) (portValue s (nextPort p).toNat)), ?result,
    setReg16_only s .ax _, setReg16_flags s .ax _, joinBytes_toNat _ _⟩
  case result => rw [inFrom, add_one_eq_nextPort, ioRead_of_allowed h, ioRead_of_allowed h', andThen_next, andThen_next]

theorem exec_inPort (w : Size) (port : Byte) (s : State) : exec (.inPort w port) s = inFrom w port s := rfl

theorem exec_inDx {s : State} {port : Byte} (h : port.toNat = s.dx.toNat % 256) (w : Size) :
    exec (.inDx w) s = inFrom w port s := congrArg (inFrom w · s) (dxPort_eq h)

theorem exec_outPort (w : Size) (port : Byte) (s : State) : exec (.outPort w port) s = outTo w port s := rfl

theorem exec_outDx {s : State} {port : Byte} (h : port.toNat = s.dx.toNat % 256) (w : Size) :
    exec (.outDx w) s = outTo w port s := congrArg (outTo w · s) (dxPort_eq h)

/-- Settles O38: the port of either form is the port of the shared body. -/
theorem inReadsPorts : Obligations.InReadsPorts := by
  refine fun s port => ⟨inFrom_byte, inFrom_word, fun hdx => ?byteDx, fun hdx => ?wordDx⟩
  case byteDx => rw [exec_inDx hdx]; exact inFrom_byte
  case wordDx => rw [exec_inDx hdx]; exact inFrom_word

/-- Writing a port changes neither the parameters nor the console. -/
theorem portWritten_params_console {s : State} {p : Byte} (h : PortAllowed s p .write) (b : Byte) :
    (portWritten s p.toNat b).params = s.params ∧ (portWritten s p.toNat b).console = s.console := by
  have hframe := (ioWrite_writesOnlyDevices (ioWrite_of_allowed h b)).frame
  rw [hframe]
  exact ⟨rfl, rfl⟩

/-- OUT of a byte to an allowed port (R228). -/
theorem outTo_byte {s : State} {p : Byte} (h : PortAllowed s p .write) :
    outTo .byte p s = .next (portWritten s p.toNat (BitVec.ofNat 8 s.ax.toNat)) := by
  rw [outTo, ioWrite_of_allowed h, reg8_al_eq_ofNat]

/-- OUT of a word to two allowed ports: the second byte is written on the state after the first (R225, R228). -/
theorem outTo_word {s : State} {p : Byte} (h : PortAllowed s p .write) (h' : PortAllowed s (nextPort p) .write) :
    outTo .word p s = .next (portWritten (portWritten s p.toNat (BitVec.ofNat 8 s.ax.toNat)) (nextPort p).toNat
      (BitVec.ofNat 8 (s.ax.toNat / 256))) := by
  obtain ⟨hparams, -⟩ := portWritten_params_console h (loByte s.ax)
  have hsecond : PortAllowed (portWritten s p.toNat (loByte s.ax)) (nextPort p) .write := by
    rwa [PortAllowed, hparams]
  rw [outTo, add_one_eq_nextPort, ioWrite_of_allowed h, andThen_next, ioWrite_of_allowed hsecond, ← reg8_al_eq_ofNat,
    ofNat_div_eq_hiByte]
  rfl

/-- Settles O39. -/
theorem outWritesPorts : Obligations.OutWritesPorts := by
  refine fun s port => ⟨outTo_byte, outTo_word, fun hdx => ?byteDx, fun hdx => ?wordDx⟩
  case byteDx => rw [exec_outDx hdx]; exact outTo_byte
  case wordDx => rw [exec_outDx hdx]; exact outTo_word

/-- IN faults where its port is barred, at either size (R98). -/
theorem inFrom_of_barred {s : State} {p : Byte} (h : ¬ PortAllowed s p .read) (w : Size) :
    inFrom w p s = .fault (.ioInvalidDeviceState s.console) := by
  cases w <;> rw [inFrom, ioRead_of_barred h, andThen_fault]

/-- IN of a word faults where its second port is barred. -/
theorem inFrom_word_of_next_barred {s : State} {p : Byte} (h : ¬ PortAllowed s (nextPort p) .read) :
    inFrom .word p s = .fault (.ioInvalidDeviceState s.console) := by
  by_cases hfirst : PortAllowed s p .read
  · rw [inFrom, add_one_eq_nextPort, ioRead_of_allowed hfirst, andThen_next, ioRead_of_barred h, andThen_fault]
  · exact inFrom_of_barred hfirst .word

/-- OUT faults where its port is barred, at either size (R98). -/
theorem outTo_of_barred {s : State} {p : Byte} (h : ¬ PortAllowed s p .write) (w : Size) :
    outTo w p s = .fault (.ioInvalidDeviceState s.console) := by
  cases w with
  | byte => exact ioWrite_of_barred h _
  | word => rw [outTo, ioWrite_of_barred h, andThen_fault]

/-- OUT of a word faults where its second port is barred, whatever the first byte did. -/
theorem outTo_word_of_next_barred {s : State} {p : Byte} (h : ¬ PortAllowed s (nextPort p) .write) :
    outTo .word p s = .fault (.ioInvalidDeviceState s.console) := by
  by_cases hfirst : PortAllowed s p .write
  · obtain ⟨hparams, hconsole⟩ := portWritten_params_console hfirst (loByte s.ax)
    have hsecond : ¬ PortAllowed (portWritten s p.toNat (loByte s.ax)) (nextPort p) .write := by
      rwa [PortAllowed, hparams]
    rw [outTo, add_one_eq_nextPort, ioWrite_of_allowed hfirst, andThen_next, ioWrite_of_barred hsecond, hconsole]
  · exact outTo_of_barred hfirst .word

/-- Settles O40. -/
theorem invalidPortsFault : Obligations.InvalidPortsFault := fun _ _ =>
  ⟨fun h w => ⟨inFrom_of_barred h w, fun hdx => (exec_inDx hdx w).trans (inFrom_of_barred h w)⟩,
    fun h => ⟨inFrom_word_of_next_barred h, fun hdx => (exec_inDx hdx .word).trans (inFrom_word_of_next_barred h)⟩,
    fun h w => ⟨outTo_of_barred h w, fun hdx => (exec_outDx hdx w).trans (outTo_of_barred h w)⟩,
    fun h => ⟨outTo_word_of_next_barred h, fun hdx => (exec_outDx hdx .word).trans (outTo_word_of_next_barred h)⟩⟩

/-! ### The two directions of the PIO's ports (R97, R288) -/

theorem mergeBits_getLsbD (mask new old : Byte) {k : Nat} (hk : k < 8) :
    (mergeBits mask new old).getLsbD k = if mask.getLsbD k then new.getLsbD k else old.getLsbD k := by
  simp only [mergeBits, BitVec.getLsbD_or, BitVec.getLsbD_and, BitVec.getLsbD_not, hk, decide_true]
  cases mask.getLsbD k <;> simp

/-- An external drive takes the input bits from the device: the bits the direction register has 0. -/
theorem drive_getLsbD (mask port ext : Byte) {k : Nat} (hk : k < 8) :
    ((port &&& mask) ||| (ext &&& ~~~ mask)).getLsbD k =
      if mask.getLsbD k then port.getLsbD k else ext.getLsbD k := by
  rw [BitVec.or_comm]
  exact mergeBits_getLsbD mask port ext hk

theorem flipBit_getLsbD (b : Byte) (i : Fin 8) {k : Nat} (hk : k < 8) :
    (flipBit b i).getLsbD k = (b.getLsbD k != decide (k = i)) := by
  have hmask : ∀ (i : Fin 8) (k : Fin 8), (bitMask i).getLsbD k = decide (k.val = i.val) := by decide
  have hxor : (flipBit b i).getLsbD k = (b.getLsbD k != (bitMask i).getLsbD k) := BitVec.getLsbD_xor
  exact hxor.trans (congrArg (b.getLsbD k != ·) (hmask i ⟨k, hk⟩))

/-- A port belongs to a block of `n` registers exactly when its offset to their base is below `n`. -/
theorem mem_block_iff {base p : Byte} {n : Nat} (hn : n ≤ 256) :
    p.toNat ∈ (List.range n).map (fun k => (base.toNat + k) % 256) ↔ portOffset base p.toNat < n := by
  have hp := p.isLt
  have hb := base.isLt
  simp only [List.mem_map, List.mem_range, portOffset]
  constructor
  · rintro ⟨k, hk, h⟩; omega
  · exact fun h => ⟨_, h, by omega⟩

/-- Where no two registers share a port, a port of the PIO is none of the PIC or the Timer. -/
theorem pio_port_only {s : State} (h : s.ports.Nodup) {p : Byte} (hp : portOffset s.params.pioBase p.toNat < 4) :
    12 ≤ portOffset s.params.picBase p.toNat ∧ 2 ≤ portOffset s.params.timerBase p.toNat := by
  have hmem := (mem_block_iff (by omega)).2 hp
  obtain ⟨hfirst, -, -⟩ := List.nodup_append.1 h
  obtain ⟨-, -, hdisjoint⟩ := List.nodup_append.1 hfirst
  simp only [List.mem_append] at hdisjoint
  constructor
  · refine Nat.le_of_not_lt fun hlt => ?_
    exact hdisjoint _ (.inl ((mem_block_iff (by omega)).2 hlt)) _ hmem rfl
  · refine Nat.le_of_not_lt fun hlt => ?_
    exact hdisjoint _ (.inr ((mem_block_iff (by omega)).2 hlt)) _ hmem rfl

theorem portOffset_base (base : Byte) : portOffset base base.toNat = 0 := eq_base_iff.1 rfl

theorem portOffset_nextPort (base : Byte) : portOffset base (nextPort base).toNat = 1 := by
  rw [← add_one_eq_nextPort]
  exact (eq_base_add_iff (by omega)).1 rfl

/-- The table's row of PA (R97). -/
theorem portWritten_pa {s : State} (h : s.ports.Nodup) (b : Byte) :
    portWritten s s.params.pioBase.toNat b =
      { s with pio := { s.pio with pa := mergeBits s.pio.ca b s.pio.pa } } := by
  have hpio := portOffset_base s.params.pioBase
  obtain ⟨hpic, htimer⟩ := pio_port_only h (p := s.params.pioBase) (by omega)
  obtain ⟨i, hi⟩ := Nat.exists_eq_add_of_le' hpic
  obtain ⟨j, hj⟩ := Nat.exists_eq_add_of_le' htimer
  unfold portWritten
  rw [hi, hj, hpio]
  rfl

/-- The table's row of PB (R97). -/
theorem portWritten_pb {s : State} (h : s.ports.Nodup) (b : Byte) :
    portWritten s (nextPort s.params.pioBase).toNat b =
      { s with pio := { s.pio with pb := mergeBits s.pio.cb b s.pio.pb } } := by
  have hpio := portOffset_nextPort s.params.pioBase
  obtain ⟨hpic, htimer⟩ := pio_port_only h (p := nextPort s.params.pioBase) (by omega)
  obtain ⟨i, hi⟩ := Nat.exists_eq_add_of_le' hpic
  obtain ⟨j, hj⟩ := Nat.exists_eq_add_of_le' htimer
  unfold portWritten
  rw [hi, hj, hpio]
  rfl

/-- OUT of the byte in AL is the port write of that byte. -/
theorem exec_outPort_byte {s t : State} {p b : Byte} (h : s.ioWrite p b = .next t) (hal : s.reg8 .al = b) :
    exec (.outPort .byte p) s = .next t := by
  rw [exec_outPort, outTo, hal, h]

/-- Settles O59: the CPU's write and the device's drive merge by the direction register, with the roles exchanged. -/
theorem pioDirectionsSeparate : Obligations.PioDirectionsSeparate := by
  refine fun s b => ⟨fun hports h => ?writeA, fun hports h => ?writeB, ?driveA, ?driveB, fun i hconfig => ?toggle⟩
  case writeA =>
    have hwrite := ioWrite_of_allowed h b
    rw [portWritten_pa hports] at hwrite
    exact ⟨_, hwrite, rfl, exec_outPort_byte hwrite, fun k hk => mergeBits_getLsbD _ _ _ hk⟩
  case writeB =>
    have hwrite := ioWrite_of_allowed h b
    rw [portWritten_pb hports] at hwrite
    exact ⟨_, hwrite, rfl, exec_outPort_byte hwrite, fun k hk => mergeBits_getLsbD _ _ _ hk⟩
  case driveA => exact ⟨_, rfl, rfl, fun k hk => drive_getLsbD _ _ _ hk⟩
  case driveB => exact ⟨_, rfl, rfl, fun k hk => drive_getLsbD _ _ _ hk⟩
  case toggle =>
    have hevent : s.hostEvent (.switchToggle i) = .next (s.switchToggle i) := if_pos hconfig
    exact ⟨_, hevent, rfl, fun k hk => ⟨flipBit_getLsbD s.switches i hk, drive_getLsbD _ _ _ hk⟩⟩

end Sys2Proof.Machine
end

section
/-! What the decoder accepts is exactly what the encoder writes (30_encoding R124 to R139): the converse of
`decode_encode_append`, so that no bit of an instruction is ignored and no two encodings mean one instruction. -/

namespace Sys2Proof

/-- Settles O4. -/
theorem decodeOfEncode : Obligations.DecodeOfEncode := fun _ rest h => decode_encode_append h rest

/-- Settles O6: each of the nine words is decoded by evaluation. -/
theorem writtenWordsDecode : Obligations.WrittenWordsDecode :=
  ⟨rfl, rfl, rfl, rfl, rfl, rfl, rfl, rfl, rfl⟩

/-! ### Answers that spell their bytes -/

/-- If the answer `d` is an instruction, it is well formed, and its encoding with the bytes left over is `bs`. -/
def Decoded.Spells (bs : List Byte) (d : Decoded) : Prop :=
  ∀ i rest, d = .ok i rest → WellFormed i ∧ bs = encode i ++ rest

theorem spells_ok {bs rest : List Byte} {i : Instr} (h : WellFormed i) (hbs : bs = encode i ++ rest) :
    (Decoded.ok i rest).Spells bs := by
  rintro _ _ ⟨⟩
  exact ⟨h, hbs⟩

theorem spells_truncated (bs : List Byte) : Decoded.truncated.Spells bs := nofun

theorem spells_illegal (bs : List Byte) (why : Illegal) : (Decoded.illegal why).Spells bs := nofun

theorem spells_ite {bs : List Byte} {c : Prop} [Decidable c] {d e : Decoded} (hd : c → d.Spells bs)
    (he : ¬ c → e.Spells bs) : (if c then d else e).Spells bs := by
  by_cases hc : c
  · rw [if_pos hc]; exact hd hc
  · rw [if_neg hc]; exact he hc

/-! ### Fields -/

theorem takeByte_spells {pre bs : List Byte} {k : Byte → List Byte → Decoded}
    (hk : ∀ b rest, (k b rest).Spells (pre ++ [b] ++ rest)) : (takeByte bs k).Spells (pre ++ bs) := by
  cases bs with
  | nil => exact spells_truncated _
  | cons b rest =>
    have hspells := hk b rest
    rwa [List.append_assoc] at hspells

theorem takeWord_spells {pre bs : List Byte} {k : Word → List Byte → Decoded}
    (hk : ∀ v rest, (k v rest).Spells (pre ++ wordBytes v ++ rest)) : (takeWord bs k).Spells (pre ++ bs) := by
  match bs with
  | [] => exact spells_truncated _
  | [_] => exact spells_truncated _
  | lo :: hi :: rest =>
    have hbytes : wordBytes (joinBytes lo hi) = [lo, hi] := by simp [wordBytes]
    have hspells := hk (joinBytes lo hi) rest
    rwa [hbytes, List.append_assoc] at hspells

theorem takeImm_spells {pre bs : List Byte} {w : Size} {k : Imm → List Byte → Decoded}
    (hk : ∀ v rest, v.size = w → (k v rest).Spells (pre ++ v.bytes ++ rest)) :
    (takeImm w bs k).Spells (pre ++ bs) := by
  cases w with
  | byte => exact takeByte_spells fun v rest => hk (.byte v) rest rfl
  | word => exact takeWord_spells fun v rest => hk (.word v) rest rfl

theorem index_reg8OfIndex (i : BitVec 3) : (reg8OfIndex i).index = i := by
  revert i; decide

theorem index_of_reg16OfIndex {i : BitVec 3} {r : Reg16} (h : reg16OfIndex i = some r) : r.index = i := by
  revert i; cases r <;> decide

theorem regOfIndex_eq_some {w : Size} {i : BitVec 3} {r : Reg} (h : regOfIndex w i = some r) :
    r.size = w ∧ r.index = i := by
  cases w with
  | byte =>
    obtain rfl : Reg.byte (reg8OfIndex i) = r := Option.some.inj h
    exact ⟨rfl, index_reg8OfIndex i⟩
  | word =>
    obtain ⟨q, hq, rfl⟩ := Option.map_eq_some_iff.1 h
    exact ⟨rfl, index_of_reg16OfIndex hq⟩

theorem withReg_spells {bs : List Byte} {w : Size} {i : BitVec 3} {k : Reg → Decoded}
    (hk : ∀ r : Reg, r.size = w → r.index = i → (k r).Spells bs) : (withReg w i k).Spells bs := by
  unfold withReg
  cases hr : regOfIndex w i with
  | none => exact spells_illegal _ _
  | some r =>
    obtain ⟨hsize, hindex⟩ := regOfIndex_eq_some hr
    exact hk r hsize hindex

theorem requireZero_spells {bs : List Byte} {f : BitVec 3} {d : Decoded} (hd : f = 0#3 → d.Spells bs) :
    (requireZero f d).Spells bs := spells_ite hd fun _ => spells_illegal _ _

/-- The low bits of a byte, as a number. -/
theorem extractLsb'_zero_toNat (b : Byte) (n : Nat) : (b.extractLsb' 0 n).toNat = b.toNat % 2 ^ n := by
  rw [BitVec.extractLsb'_toNat, Nat.shiftRight_zero]

/-! ### Format BIN -/

theorem wellFormed_ofBin (op : BinOp) (f : BinForm) : WellFormed (.ofBin op f) := by
  cases op <;> cases f <;> rfl

theorem spells_ofBin {bs rest : List Byte} {op : BinOp} {f : BinForm} (hbs : bs = encodeBin op f ++ rest) :
    (Decoded.ok (.ofBin op f) rest).Spells bs :=
  spells_ok (wellFormed_ofBin op f) (hbs.trans (congrArg (· ++ rest) (encode_ofBin op f).symm))

theorem encodeBin_regReg_of_index {w : Size} {i j : BitVec 3} {p : RegPair} (h : regPairOfIndex w i j = some p)
    (op : BinOp) : encodeBin op (.regReg p) = binBytes op w 0 0 i j := by
  cases w with
  | byte =>
    obtain rfl : RegPair.byte (reg8OfIndex i) (reg8OfIndex j) = p := Option.some.inj h
    simp only [encodeBin, index_reg8OfIndex]
  | word =>
    simp only [regPairOfIndex] at h
    split at h
    next d s hd hs =>
      obtain rfl : RegPair.word d s = p := Option.some.inj h
      simp only [encodeBin, index_of_reg16OfIndex hd, index_of_reg16OfIndex hs]
    next => cases h

theorem encodeBin_regImm_of_regImmOf {d : Reg} {v : Imm} {q : RegImm} (h : regImmOf d v = some q) (op : BinOp) :
    encodeBin op (.regImm q) = binBytes op d.size 3 0 d.index 0 ++ v.bytes := by
  cases d <;> cases v <;> cases h <;> rfl

/-- A pair (mm, k) by its two numbers. -/
theorem formPair_eq {mm k : BitVec 2} {m n : Nat} (hmm : mm.toNat = m) (hk : k.toNat = n) :
    mm = BitVec.ofNat 2 m ∧ k = BitVec.ofNat 2 n := by
  rw [← hmm, ← hk, BitVec.ofNat_toNat, BitVec.ofNat_toNat, BitVec.setWidth_eq, BitVec.setWidth_eq]
  exact ⟨rfl, rfl⟩

/-- The converse of `decode_binBytes`.  The cases are R131's pairs (mm, k) in the order of the table, and the pairs it
does not list. -/
theorem decodeForm_spells (op : BinOp) (w : Size) (mm k : BitVec 2) (r s : BitVec 3) (rest : List Byte) :
    (decodeForm op w mm (k ++ r ++ s) rest).Spells (binBytes op w mm k r s ++ rest) := by
  obtain ⟨hfieldK, hfieldR, hfieldS⟩ := binSecondByte_fields k r s
  simp only [decodeForm, hfieldK, hfieldR, hfieldS]
  split
  case h_1 hmm hk =>
    obtain ⟨rfl, rfl⟩ := formPair_eq hmm hk
    cases hp : regPairOfIndex w r s with
    | none => exact spells_illegal _ _
    | some p => exact spells_ofBin (congrArg (· ++ rest) (encodeBin_regReg_of_index hp op).symm)
  case h_2 hmm hk | h_4 hmm hk =>
    obtain ⟨rfl, rfl⟩ := formPair_eq hmm hk
    refine requireZero_spells ?_
    rintro rfl
    refine withReg_spells ?_
    rintro d rfl rfl
    exact spells_ofBin rfl
  case h_3 hmm hk | h_5 hmm hk =>
    obtain ⟨rfl, rfl⟩ := formPair_eq hmm hk
    refine requireZero_spells ?_
    rintro rfl
    refine withReg_spells ?_
    rintro d rfl rfl
    exact takeWord_spells fun addr rest => spells_ofBin rfl
  case h_6 hmm hk =>
    obtain ⟨rfl, rfl⟩ := formPair_eq hmm hk
    refine requireZero_spells ?_
    rintro rfl
    refine withReg_spells ?_
    rintro d rfl rfl
    refine takeImm_spells fun v rest _ => ?_
    cases hq : regImmOf d v with
    | none => exact spells_illegal _ _
    | some q => exact spells_ofBin (congrArg (· ++ rest) (encodeBin_regImm_of_regImmOf hq op).symm)
  case h_7 hmm hk =>
    obtain ⟨rfl, rfl⟩ := formPair_eq hmm hk
    refine requireZero_spells ?_
    rintro rfl
    refine requireZero_spells ?_
    rintro rfl
    refine takeImm_spells ?_
    rintro v rest rfl
    exact spells_ofBin rfl
  case h_8 hmm hk =>
    obtain ⟨rfl, rfl⟩ := formPair_eq hmm hk
    refine requireZero_spells ?_
    rintro rfl
    refine requireZero_spells ?_
    rintro rfl
    refine takeWord_spells fun addr rest => takeImm_spells ?_
    rintro v rest rfl
    exact spells_ofBin rfl
  case h_9 => exact spells_illegal _ _

/-- The fields of a first byte of format BIN, put together, are that byte (R127, R128). -/
theorem binFirstByte_of_fields {b0 : Byte} {op : BinOp} (h : b0.toNat ≤ 0x47)
    (hop : binOpOf (b0.extractLsb' 3 4) = some op) :
    0#1 ++ op.code ++ (sizeOfBit (b0.getLsbD 2)).bit ++ b0.extractLsb' 0 2 = b0 := by
  cases op <;> revert b0 <;> decide

/-- The fields of a second byte of format BIN, put together, are that byte (R129). -/
theorem binSecondByte_of_fields (b1 : Byte) :
    b1.extractLsb' 6 2 ++ b1.extractLsb' 3 3 ++ b1.extractLsb' 0 3 = b1 := by
  revert b1; decide

theorem decodeBin_spells {b0 : Byte} (h : b0.toNat ≤ 0x47) (rest : List Byte) :
    (decodeBin b0 rest).Spells ([b0] ++ rest) := by
  unfold decodeBin
  cases hop : binOpOf (b0.extractLsb' 3 4) with
  | none => exact spells_illegal _ _
  | some op =>
    refine takeByte_spells fun b1 rest => ?_
    have hspells := decodeForm_spells op (sizeOfBit (b0.getLsbD 2)) (b0.extractLsb' 0 2) (b1.extractLsb' 6 2)
      (b1.extractLsb' 3 3) (b1.extractLsb' 0 3) rest
    rwa [binBytes, binFirstByte_of_fields h hop, binSecondByte_of_fields] at hspells

/-! ### Format UN -/

theorem wellFormed_ofUn (op : UnOp) (f : UnForm) : WellFormed (.ofUn op f) := by
  cases op <;> cases f <;> rfl

theorem spells_ofUn {bs rest : List Byte} {op : UnOp} {f : UnForm} (hbs : bs = encodeUn op f ++ rest) :
    (Decoded.ok (.ofUn op f) rest).Spells bs :=
  spells_ok (wellFormed_ofUn op f) (hbs.trans (congrArg (· ++ rest) (encode_ofUn op f).symm))

/-- The fields of a first byte of format UN, put together, are that byte (R133). -/
theorem unByte_of_fields {b0 : Byte} (h : 0x80 ≤ b0.toNat) :
    b0 = unByte (unOpOf (b0.extractLsb' 5 2)) (sizeOfBit (b0.getLsbD 4))
      (BitVec.ofBool (b0.getLsbD 3) ++ b0.extractLsb' 0 3) := by
  revert b0; decide

/-- The cases are R134's selectors: a register, `[BX]`, `[addr]`, and the reserved ones. -/
theorem decodeUn_spells {b0 : Byte} (h : 0x80 ≤ b0.toNat) (rest : List Byte) :
    (decodeUn b0 rest).Spells ([b0] ++ rest) := by
  have hbyte := unByte_of_fields h
  simp only [decodeUn]
  refine spells_ite (fun hreg => withReg_spells fun r hsize hindex => ?register) fun hreg =>
    spells_ite (fun hs => ?bx) fun _ => spells_ite (fun hs => ?mem) fun _ => spells_illegal _ _
  case register =>
    rw [hreg, ← hsize, ← hindex] at hbyte
    exact spells_ofUn (congrArg ([·] ++ rest) hbyte)
  case bx =>
    rw [Bool.not_eq_false] at hreg
    rw [hreg, hs] at hbyte
    exact spells_ofUn (congrArg ([·] ++ rest) hbyte)
  case mem =>
    rw [Bool.not_eq_false] at hreg
    rw [hreg, hs] at hbyte
    exact takeWord_spells fun addr rest => spells_ofUn (congrArg ([·] ++ wordBytes addr ++ rest) hbyte)

/-! ### The other formats -/

/-- Format Z (R135). -/
theorem decodeZero_spells {b0 : Byte} (hlo : 0x48 ≤ b0.toNat) (hhi : b0.toNat ≤ 0x4F) (rest : List Byte) :
    (decodeZero b0 rest).Spells ([b0] ++ rest) := by
  have hfield : (b0.extractLsb' 0 3).toNat = b0.toNat - 0x48 := by rw [extractLsb'_zero_toNat]; omega
  simp only [decodeZero, hfield]
  split
  case h_8 =>
    simp only [imp_false] at *
    exact spells_ok rfl (congrArg ([·] ++ rest) (by bv_omega))
  all_goals exact spells_ok rfl (congrArg ([·] ++ rest) (by bv_omega))

/-- The fields of a first byte of format STK, put together, are that byte (R136). -/
theorem stackByte_of_fields {b0 : Byte} (hlo : 0x50 ≤ b0.toNat) (hhi : b0.toNat ≤ 0x5F) :
    b0 = (if b0.getLsbD 3 then 0b01011#5 else 0b01010#5) ++ b0.extractLsb' 0 3 := by
  revert b0; decide

/-- Format STK (R136). -/
theorem decodeStack_spells {b0 : Byte} (hlo : 0x50 ≤ b0.toNat) (hhi : b0.toNat ≤ 0x5F) (rest : List Byte) :
    (decodeStack b0 rest).Spells ([b0] ++ rest) := by
  have hbyte := stackByte_of_fields hlo hhi
  unfold decodeStack
  cases hr : reg16OfIndex (b0.extractLsb' 0 3) with
  | none => exact spells_illegal _ _
  | some r =>
    rw [← index_of_reg16OfIndex hr] at hbyte
    cases hpop : b0.getLsbD 3 <;> rw [hpop] at hbyte <;> exact spells_ok rfl (congrArg ([·] ++ rest) hbyte)

/-- Format J (R137). -/
theorem decodeJump_spells {b0 : Byte} (hlo : 0x60 ≤ b0.toNat) (hhi : b0.toNat ≤ 0x69) (rest : List Byte) :
    (decodeJump b0 rest).Spells ([b0] ++ rest) := by
  have hfield : (b0.extractLsb' 0 4).toNat = b0.toNat - 0x60 := by rw [extractLsb'_zero_toNat]; omega
  refine takeWord_spells fun addr rest => ?_
  simp only [hfield]
  split
  case h_10 =>
    simp only [imp_false] at *
    exact spells_ok rfl (congrArg ([·] ++ wordBytes addr ++ rest) (by bv_omega))
  all_goals exact spells_ok rfl (congrArg ([·] ++ wordBytes addr ++ rest) (by bv_omega))

/-- A number without a row of its own is one `INT n` admits (R245). -/
theorem wellFormed_intN {n : Byte} (h0 : n ≠ 0#8) (h3 : n ≠ 3#8) (h6 : n ≠ 6#8) (h7 : n ≠ 7#8) :
    WellFormed (.intN n) := by
  simp [WellFormed, Instr.wf, specialInts, h0, h3, h6, h7]

/-- Format INT (R138): the four numbers with rows of their own, and the others. -/
theorem decodeInt_spells (rest : List Byte) : (decodeInt rest).Spells ([0x6A#8] ++ rest) := by
  refine takeByte_spells fun n rest => ?_
  refine spells_ite (fun h0 => ?_) fun h0 => spells_ite (fun h3 => ?_) fun h3 => spells_ite (fun h6 => ?_) fun h6 =>
    spells_ite (fun h7 => ?_) fun h7 => spells_ok (wellFormed_intN h0 h3 h6 h7) rfl
  all_goals subst n; exact spells_ok rfl rfl

/-- The fields of a first byte of format IO, put together, are that byte (R139). -/
theorem ioByte_of_fields {b0 : Byte} (hlo : 0x70 ≤ b0.toNat) (hhi : b0.toNat ≤ 0x77) :
    b0 = ioByte (BitVec.ofBool (b0.getLsbD 2)) (sizeOfBit (b0.getLsbD 1)) (BitVec.ofBool (b0.getLsbD 0)) := by
  revert b0; decide

/-- Format IO (R139): a port in `DX`, or in the byte that follows. -/
theorem decodeIo_spells {b0 : Byte} (hlo : 0x70 ≤ b0.toNat) (hhi : b0.toNat ≤ 0x77) (rest : List Byte) :
    (decodeIo b0 rest).Spells ([b0] ++ rest) := by
  have hbyte := ioByte_of_fields hlo hhi
  refine spells_ite (fun hdx => ?dx) fun himm => takeByte_spells fun port rest => ?immediate
  case dx =>
    rw [hdx] at hbyte
    cases hd : b0.getLsbD 2 <;> rw [hd] at hbyte <;> exact spells_ok rfl (congrArg ([·] ++ rest) hbyte)
  case immediate =>
    rw [Bool.not_eq_true] at himm
    rw [himm] at hbyte
    cases hd : b0.getLsbD 2 <;> rw [hd] at hbyte <;> exact spells_ok rfl (congrArg ([·] ++ [port] ++ rest) hbyte)

/-! ### The decoder -/

/-- Every answer of the decoder spells the bytes it was given (R140, R144). -/
theorem decode_spells (bs : List Byte) : (decode bs).Spells bs := by
  refine takeByte_spells (pre := []) fun b0 rest => ?_
  have hreserved := spells_illegal ([b0] ++ rest) .reservedFirstByte
  refine spells_ite (fun hbin => decodeBin_spells hbin rest) fun hbin => ?_
  refine spells_ite (fun hzero => decodeZero_spells (by omega) hzero rest) fun hzero => ?_
  refine spells_ite (fun hstack => decodeStack_spells (by omega) hstack rest) fun hstack => ?_
  refine spells_ite (fun hjump => decodeJump_spells (by omega) hjump rest) fun hjump => ?_
  refine spells_ite (fun hint => ?int) fun hint => spells_ite (fun _ => hreserved) fun hbelow => ?_
  case int =>
    obtain rfl : b0 = 0x6A#8 := BitVec.eq_of_toNat_eq hint
    exact decodeInt_spells rest
  refine spells_ite (fun hio => decodeIo_spells (by omega) hio rest) fun hio => ?_
  exact spells_ite (fun _ => hreserved) fun habove => decodeUn_spells (by omega) rest

/-- Settles O5. -/
theorem encodeOfDecode : Obligations.EncodeOfDecode := fun bs rest i h => decode_spells bs i rest h

end Sys2Proof
end

section
/-! Which bytes the decoder rejects (30_encoding R126, R131, R134, R136, R140), by the numbers of `reservedFirst` and
`legalBin`, and the fault of executing them (R141). -/

namespace Sys2Proof

open Machine

/-! ### Rejections -/

/-- The answer is a rejection. -/
def Decoded.rejects : Decoded → Bool
  | .illegal _ => true
  | _ => false

theorem rejects_iff {d : Decoded} : d.rejects = true ↔ ∃ why, d = .illegal why := by
  cases d <;> simp [Decoded.rejects]

@[simp] theorem ok_rejects (i : Instr) (rest : List Byte) : (Decoded.ok i rest).rejects = false := rfl
@[simp] theorem illegal_rejects (why : Illegal) : (Decoded.illegal why).rejects = true := rfl

theorem ite_rejects {c : Prop} [Decidable c] {d e : Decoded} {r : Bool} (hd : c → d.rejects = r)
    (he : ¬ c → e.rejects = r) : (if c then d else e).rejects = r := by
  by_cases hc : c
  · rw [if_pos hc]; exact hd hc
  · rw [if_neg hc]; exact he hc

/-! ### Fields -/

theorem takeByte_rejects {k : Byte → List Byte → Decoded} (hk : ∀ b rest, (k b rest).rejects = false)
    (bs : List Byte) : (takeByte bs k).rejects = false := by
  cases bs with
  | nil => rfl
  | cons b rest => exact hk b rest

theorem takeWord_rejects {k : Word → List Byte → Decoded} (hk : ∀ v rest, (k v rest).rejects = false)
    (bs : List Byte) : (takeWord bs k).rejects = false := by
  match bs with
  | [] => rfl
  | [_] => rfl
  | lo :: hi :: rest => exact hk (joinBytes lo hi) rest

theorem takeImm_rejects {w : Size} {k : Imm → List Byte → Decoded}
    (hk : ∀ v rest, v.size = w → (k v rest).rejects = false) (bs : List Byte) : (takeImm w bs k).rejects = false := by
  cases w with
  | byte => exact takeByte_rejects (fun v rest => hk (.byte v) rest rfl) bs
  | word => exact takeWord_rejects (fun v rest => hk (.word v) rest rfl) bs

theorem validIndex_iff (w i : Nat) : validIndex w i = true ↔ w = 0 ∨ i ≤ 4 := by
  simp only [validIndex, Bool.or_eq_true, decide_eq_true_eq]

/-- `ValidReg` says which indices have a register (R126). -/
theorem regOfIndex_isSome (w : Size) (i : BitVec 3) : (regOfIndex w i).isSome = validIndex w.bit.toNat i.toNat := by
  cases w <;> revert i <;> decide

theorem regPairOfIndex_isSome (w : Size) (i j : BitVec 3) :
    (regPairOfIndex w i j).isSome = (validIndex w.bit.toNat i.toNat && validIndex w.bit.toNat j.toNat) := by
  cases w <;> revert i j <;> decide

theorem withReg_rejects {w : Size} {k : Reg → Decoded} (hk : ∀ r : Reg, r.size = w → (k r).rejects = false)
    (i : BitVec 3) : (withReg w i k).rejects = !validIndex w.bit.toNat i.toNat := by
  rw [← regOfIndex_isSome, withReg]
  cases hr : regOfIndex w i with
  | none => rfl
  | some r => exact hk r (regOfIndex_eq_some hr).1

theorem requireZero_rejects (f : BitVec 3) (d : Decoded) :
    (requireZero f d).rejects = (!decide (f.toNat = 0) || d.rejects) := by
  unfold requireZero
  by_cases hf : f = 0#3
  · subst hf; rfl
  · have hne : f.toNat ≠ 0 := fun h => hf (BitVec.eq_of_toNat_eq h)
    simp [hf, hne]

/-- An immediate is read at the size of its register, so the two always go together. -/
theorem regImmOf_of_size_eq {d : Reg} {v : Imm} (h : v.size = d.size) : ∃ q, regImmOf d v = some q :=
  match d, v, h with
  | .byte d, .byte v, _ => ⟨.byte d v, rfl⟩
  | .word d, .word v, _ => ⟨.word d v, rfl⟩

/-- A bit of a byte as a number. -/
theorem getLsbD_eq_decide (b : Byte) (n : Nat) : b.getLsbD n = decide (b.toNat / 2 ^ n % 2 = 1) :=
  Nat.testBit_eq_decide_div_mod_eq

/-- The size bit as a number. -/
theorem sizeOfBit_getLsbD_toNat (b : Byte) (n : Nat) :
    (sizeOfBit (b.getLsbD n)).bit.toNat = b.toNat / 2 ^ n % 2 := by
  rw [getLsbD_eq_decide]
  rcases Nat.mod_two_eq_zero_or_one (b.toNat / 2 ^ n) with h | h <;> rw [h] <;> rfl

/-- A field of a byte as a number. -/
theorem extractLsb'_toNat_div (b : Byte) (start len : Nat) :
    (b.extractLsb' start len).toNat = b.toNat / 2 ^ start % 2 ^ len := by
  rw [BitVec.extractLsb'_toNat, Nat.shiftRight_eq_div_pow]

/-! ### Format BIN -/

/-- Two registers: the pair (0, 0). -/
theorem legalBin_regReg {b0 b1 : Nat} (hmm : b0 % 4 = 0) (hk : b1 / 64 = 0) :
    legalBin b0 b1 = (validIndex (b0 / 4 % 2) (b1 / 8 % 8) && validIndex (b0 / 4 % 2) (b1 % 8)) := by
  simp only [legalBin, hmm, hk]

/-- One register: the field `S` is zero. -/
theorem legalBin_oneReg {b0 b1 : Nat}
    (h : (b0 % 4 = 1 ∨ b0 % 4 = 2) ∧ (b1 / 64 = 1 ∨ b1 / 64 = 2) ∨ b0 % 4 = 3 ∧ b1 / 64 = 0) :
    legalBin b0 b1 = (validIndex (b0 / 4 % 2) (b1 / 8 % 8) && decide (b1 % 8 = 0)) := by
  rcases h with ⟨hmm | hmm, hk | hk⟩ | ⟨hmm, hk⟩ <;> simp only [legalBin, hmm, hk]

/-- No register: the fields `R` and `S` are zero. -/
theorem legalBin_noReg {b0 b1 : Nat} (hmm : b0 % 4 = 3) (hk : b1 / 64 = 1 ∨ b1 / 64 = 2) :
    legalBin b0 b1 = (decide (b1 / 8 % 8 = 0) && decide (b1 % 8 = 0)) := by
  rcases hk with hk | hk <;> simp only [legalBin, hmm, hk]

/-- The pairs (mm, k) R131 lists. -/
theorem pair_listed_of_legalBin {b0 b1 : Nat} (h : legalBin b0 b1 = true) :
    b0 % 4 = 0 ∧ b1 / 64 = 0 ∨ (b0 % 4 = 1 ∨ b0 % 4 = 2) ∧ (b1 / 64 = 1 ∨ b1 / 64 = 2) ∨
      b0 % 4 = 3 ∧ b1 / 64 ≤ 2 := by
  unfold legalBin at h
  split at h
  case h_9 => cases h
  all_goals omega

/-- The cases are R131's pairs (mm, k) in the order of the table, and the pairs it does not list. -/
theorem decodeForm_rejects (op : BinOp) (b0 b1 : Byte) (rest : List Byte) :
    (decodeForm op (sizeOfBit (b0.getLsbD 2)) (b0.extractLsb' 0 2) b1 rest).rejects = !legalBin b0.toNat b1.toNat := by
  have hw : (sizeOfBit (b0.getLsbD 2)).bit.toNat = b0.toNat / 4 % 2 := sizeOfBit_getLsbD_toNat b0 2
  have hfieldMm : (b0.extractLsb' 0 2).toNat = b0.toNat % 4 := extractLsb'_zero_toNat b0 2
  have hfieldK : (b1.extractLsb' 6 2).toNat = b1.toNat / 64 := by rw [extractLsb'_toNat_div]; omega
  have hr : (b1.extractLsb' 3 3).toNat = b1.toNat / 8 % 8 := extractLsb'_toNat_div b1 3 3
  have hs : (b1.extractLsb' 0 3).toNat = b1.toNat % 8 := extractLsb'_zero_toNat b1 3
  simp only [decodeForm, hfieldMm, hfieldK]
  split
  case h_1 hmm hk =>
    rw [legalBin_regReg hmm hk, ← hw, ← hr, ← hs, ← regPairOfIndex_isSome]
    cases regPairOfIndex (sizeOfBit (b0.getLsbD 2)) (b1.extractLsb' 3 3) (b1.extractLsb' 0 3) <;> rfl
  case h_2 hmm hk | h_4 hmm hk =>
    rw [legalBin_oneReg (by omega), requireZero_rejects, withReg_rejects fun _ _ => rfl, hw, hr, hs, Bool.not_and,
      Bool.or_comm]
  case h_3 hmm hk | h_5 hmm hk =>
    rw [legalBin_oneReg (by omega), requireZero_rejects,
      withReg_rejects fun _ _ => takeWord_rejects (fun _ _ => rfl) _, hw, hr, hs, Bool.not_and, Bool.or_comm]
  case h_6 hmm hk =>
    rw [legalBin_oneReg (by omega), requireZero_rejects, withReg_rejects, hw, hr, hs, Bool.not_and, Bool.or_comm]
    intro d hd
    refine takeImm_rejects (fun v rest hv => ?_) rest
    obtain ⟨q, hq⟩ := regImmOf_of_size_eq (hv.trans hd.symm)
    rw [hq, ok_rejects]
  case h_7 hmm hk =>
    rw [legalBin_noReg hmm (by omega), requireZero_rejects, requireZero_rejects, takeImm_rejects fun _ _ _ => rfl, hr,
      hs, Bool.or_false, Bool.not_and]
  case h_8 hmm hk =>
    rw [legalBin_noReg hmm (by omega), requireZero_rejects, requireZero_rejects,
      takeWord_rejects fun _ _ => takeImm_rejects (fun _ _ _ => rfl) _, hr, hs, Bool.or_false, Bool.not_and]
  case h_9 h00 h11 h12 h21 h22 h30 h31 h32 =>
    have hunlisted : ¬ legalBin b0.toNat b1.toNat = true := fun hlegal => by
      have hlisted := pair_listed_of_legalBin hlegal
      simp only [imp_false] at h00 h11 h12 h21 h22 h30 h31 h32
      omega
    rw [Bool.not_eq_true] at hunlisted
    rw [hunlisted, illegal_rejects, Bool.not_false]

/-- Every first byte up to 47h names an operation (R128, R140). -/
theorem binOpOf_of_le {b0 : Byte} (h : b0.toNat ≤ 0x47) : ∃ op, binOpOf (b0.extractLsb' 3 4) = some op := by
  rw [← Option.isSome_iff_exists]
  revert b0; decide

/-- Two bytes of format BIN are rejected exactly outside R131's table. -/
theorem decode_rejects_of_le {b0 : Byte} (h : b0.toNat ≤ 0x47) (b1 : Byte) (rest : List Byte) :
    (decode (b0 :: b1 :: rest)).rejects = !legalBin b0.toNat b1.toNat := by
  obtain ⟨op, hop⟩ := binOpOf_of_le h
  simp only [decode, takeByte, if_pos h, decodeBin, hop]
  exact decodeForm_rejects op b0 b1 rest

/-! ### The other formats -/

theorem decodeZero_rejects (b0 : Byte) (rest : List Byte) : (decodeZero b0 rest).rejects = false := by
  unfold decodeZero
  split <;> rfl

theorem reg16OfIndex_isSome (i : BitVec 3) : (reg16OfIndex i).isSome = decide (i.toNat ≤ 4) := by
  revert i; decide

/-- R136: the register indices 101 to 111. -/
theorem decodeStack_rejects (b0 : Byte) (rest : List Byte) :
    (decodeStack b0 rest).rejects = decide (5 ≤ b0.toNat % 8) := by
  have hsome := reg16OfIndex_isSome (b0.extractLsb' 0 3)
  rw [extractLsb'_zero_toNat b0 3] at hsome
  unfold decodeStack
  cases hr : reg16OfIndex (b0.extractLsb' 0 3) with
  | none =>
    simp only [hr, Option.isSome_none, false_eq_decide_iff] at hsome
    exact (decide_eq_true (by omega)).symm
  | some r =>
    simp only [hr, Option.isSome_some, true_eq_decide_iff] at hsome
    exact (decide_eq_false (by omega)).symm

theorem decodeJump_rejects (b0 : Byte) (rest : List Byte) : (decodeJump b0 rest).rejects = false := by
  refine takeWord_rejects (fun addr rest => ?_) rest
  split <;> rfl

theorem decodeInt_rejects (rest : List Byte) : (decodeInt rest).rejects = false := by
  refine takeByte_rejects (fun n rest => ?_) rest
  exact ite_rejects (fun _ => rfl) fun _ => ite_rejects (fun _ => rfl) fun _ => ite_rejects (fun _ => rfl) fun _ =>
    ite_rejects (fun _ => rfl) fun _ => rfl

theorem decodeIo_rejects (b0 : Byte) (rest : List Byte) : (decodeIo b0 rest).rejects = false :=
  ite_rejects (fun _ => rfl) fun _ => takeByte_rejects (fun _ _ => rfl) rest

/-- R134: the selectors from 1010 on, and at word size the register indices 101 to 111. -/
theorem decodeUn_rejects (b0 : Byte) (rest : List Byte) :
    (decodeUn b0 rest).rejects =
      decide (10 ≤ b0.toNat % 16 ∨ b0.toNat / 16 % 2 = 1 ∧ 5 ≤ b0.toNat % 16 ∧ b0.toNat % 16 ≤ 7) := by
  have hw : (sizeOfBit (b0.getLsbD 4)).bit.toNat = b0.toNat / 16 % 2 := sizeOfBit_getLsbD_toNat b0 4
  have hs : (b0.extractLsb' 0 3).toNat = b0.toNat % 8 := extractLsb'_zero_toNat b0 3
  have hreg : b0.getLsbD 3 = false ↔ b0.toNat / 8 % 2 = 0 := by
    rw [getLsbD_eq_decide, decide_eq_false_iff_not]
    omega
  have hsel : ∀ c : BitVec 3, b0.extractLsb' 0 3 = c ↔ b0.toNat % 8 = c.toNat := fun c => by
    rw [← BitVec.toNat_inj, hs]
  simp only [decodeUn, hreg, hsel, BitVec.toNat_ofNat]
  refine ite_rejects (fun hregister => ?register) fun hmemory => ite_rejects (fun hbx => ?bx) fun hbx =>
    ite_rejects (fun hmem => ?mem) fun hmem => ?reserved
  case register =>
    rw [withReg_rejects fun _ _ => rfl, hw, hs, Bool.eq_iff_iff, decide_eq_true_eq, Bool.not_eq_true',
      ← Bool.not_eq_true, validIndex_iff]
    omega
  case bx =>
    exact (decide_eq_false (by omega)).symm
  case mem =>
    rw [takeWord_rejects fun _ _ => rfl]
    exact (decide_eq_false (by omega)).symm
  case reserved =>
    exact (decide_eq_true (by omega)).symm

/-! ### The decoder -/

theorem reservedFirst_eq (n : Nat) :
    reservedFirst n =
      decide ((0x55 ≤ n ∧ n ≤ 0x57) ∨ (0x5D ≤ n ∧ n ≤ 0x5F) ∨ (0x6B ≤ n ∧ n ≤ 0x6F) ∨ (0x78 ≤ n ∧ n ≤ 0x7F) ∨
        (0x80 ≤ n ∧ (10 ≤ n % 16 ∨ n / 16 % 2 = 1 ∧ 5 ≤ n % 16 ∧ n % 16 ≤ 7))) := by
  rw [Bool.eq_iff_iff]
  simp only [reservedFirst, Bool.or_eq_true, Bool.and_eq_true, decide_eq_true_eq]
  omega

/-- From 48h on the first byte alone decides, whatever follows (R140): the steps are the formats in the order of R140's
table, with its two reserved ranges. -/
theorem decode_rejects_of_ge {b0 : Byte} (h : 0x48 ≤ b0.toNat) (rest : List Byte) :
    (decode (b0 :: rest)).rejects = reservedFirst b0.toNat := by
  have hlt : b0.toNat < 0x100 := b0.isLt
  rw [reservedFirst_eq]
  refine ite_rejects (fun hbin => by omega) fun hbin => ?_
  refine ite_rejects (fun hzero => ?zero) fun hzero => ite_rejects (fun hstack => ?stack) fun hstack => ?_
  case zero => exact (decodeZero_rejects b0 rest).trans (decide_eq_false (by omega)).symm
  case stack => exact (decodeStack_rejects b0 rest).trans (decide_eq_decide.2 (by omega))
  refine ite_rejects (fun hjump => ?jump) fun hjump => ite_rejects (fun hint => ?int) fun hint => ?_
  case jump => exact (decodeJump_rejects b0 rest).trans (decide_eq_false (by omega)).symm
  case int => exact (decodeInt_rejects rest).trans (decide_eq_false (by omega)).symm
  refine ite_rejects (fun hgap => ?lowGap) fun hgap => ite_rejects (fun hio => ?io) fun hio => ?_
  case lowGap => exact (illegal_rejects _).trans (decide_eq_true (by omega)).symm
  case io => exact (decodeIo_rejects b0 rest).trans (decide_eq_false (by omega)).symm
  refine ite_rejects (fun hgap => ?highGap) fun hgap => ?un
  case highGap => exact (illegal_rejects _).trans (decide_eq_true (by omega)).symm
  case un => exact (decodeUn_rejects b0 rest).trans (decide_eq_decide.2 (by omega))

/-- No first byte of format BIN is reserved by itself (R140). -/
theorem le_of_reservedFirst {n : Nat} (h : reservedFirst n = true) : 0x48 ≤ n := by
  rw [reservedFirst_eq, decide_eq_true_eq] at h
  omega

/-- Settles O7. -/
theorem illegalEncodingsRejected : Obligations.IllegalEncodingsRejected := by
  refine ⟨fun b0 rest hreserved => ?reserved, fun b0 b1 rest hbin => ?bin, fun b0 rest why hge hillegal => ?only⟩
  case reserved =>
    rw [← rejects_iff, decode_rejects_of_ge (le_of_reservedFirst hreserved), hreserved]
  case bin => rw [← rejects_iff, decode_rejects_of_le hbin, Bool.not_eq_true']
  case only =>
    rw [← decode_rejects_of_ge hge rest, rejects_iff]
    exact ⟨why, hillegal⟩

namespace Machine

/-! ### The fault (R141) -/

/-- Past the boundary, bytes at `IP` that are no instruction end the run with `invalid-instruction` (R141). -/
theorem stepWith_of_illegal {enc : InstrEncoding} {s t : State} (hs : Running s) (hb : boundary s = .next t)
    (hd : ∃ why, enc.decode (fetchBytes t.mem t.ip enc.maxLength) = .illegal why) :
    stepWith enc s = .fault (.invalidInstruction t.console) := by
  obtain ⟨why, hd⟩ := hd
  have hf : fetchDecodeWith enc t = .fault (.invalidInstruction t.console) := by simp only [fetchDecodeWith, hd]
  rw [stepWith_of_boundary_next hs hb, hf, andThen_fault]

/-- A fetch window that begins in memory begins with the byte there. -/
theorem fetchBytes_succ (m : Memory) {a : Word} (h : ByteIn a) (n : Nat) :
    fetchBytes m a (n + 1) = m.read a.toNat :: fetchBytes m (a + 1#16) n := by
  simp only [fetchBytes, (inRange_iff a).2 h, if_true]

/-- Settles O8: the fetch window begins with the illegal byte or the illegal two bytes. -/
theorem illegalBytesFault : Obligations.IllegalBytesFault := by
  intro s t hs hb hin hillegal
  obtain ⟨hreserved, hbin, -⟩ := illegalEncodingsRejected
  refine stepWith_of_illegal (enc := .standard) hs hb ?_
  change ∃ why, decode (fetchBytes t.mem t.ip (5 + 1)) = .illegal why
  rw [fetchBytes_succ t.mem hin]
  rcases hillegal with hfirst | ⟨hle, hword, htwo⟩
  · exact hreserved _ _ hfirst
  · have hsucc := toNat_succ hword
    have hin1 : ByteIn (t.ip + 1#16) := by simp only [ByteIn, hsucc]; omega
    rw [fetchBytes_succ t.mem hin1 4, hsucc]
    exact (hbin _ _ _ hle).2 htwo

end Machine

end Sys2Proof
end

section
/-! The ALU (40_arithmetic R170, R171; 41_logic R200): its outputs as the relations over unbounded integers, at every
width. -/

namespace Sys2Proof.Machine

/-! ### Outputs that depend on the result alone -/

theorem outOfSigned_iff (n : Nat) (s : Int) : outOfSigned n s = true ↔ SignedOverflow n s := by
  simp only [outOfSigned, SignedOverflow, Bool.or_eq_true, decide_eq_true_eq]
  omega

theorem boolToInt_eq_toNat (c : Bool) : c.toInt = (c.toNat : Int) := by cases c <;> rfl

/-- ZF and SF taken from the result as the ALU takes them are those of the claims. -/
theorem zeroSignFrom_of_eq {n : Nat} {g : Flags} {r : BitVec n} (hz : g.zero = (r == 0#n)) (hs : g.sign = r.msb) :
    ZeroSignFrom g r := by
  refine ⟨?zero, ?sign⟩
  case zero => rw [hz, beq_iff_eq, ← BitVec.toNat_inj, BitVec.toNat_zero]
  case sign => rw [hs, BitVec.msb_eq_decide, decide_eq_true_eq]

/-! ### Addition (R170) -/

theorem aluAdd_truncates {n : Nat} (a b : BitVec n) (c : Bool) :
    Truncates n (a.toNat + b.toNat + c.toNat) (aluAdd a b c).value := by
  simp only [Truncates, aluAdd, BitVec.toNat_ofNat]
  push_cast
  rfl

theorem aluAdd_carry_iff {n : Nat} (a b : BitVec n) (c : Bool) :
    (aluAdd a b c).carry = true ↔ 2 ^ n - 1 < a.toNat + b.toNat + c.toNat := by
  simp only [aluAdd, decide_eq_true_eq, gt_iff_lt]

theorem aluAdd_overflow_iff {n : Nat} (a b : BitVec n) (c : Bool) :
    (aluAdd a b c).overflow = true ↔ SignedOverflow n (a.toInt + b.toInt + c.toNat) := by
  rw [← boolToInt_eq_toNat]
  exact outOfSigned_iff n _

/-- Settles O12. -/
theorem aluAddFollowsR170 : Obligations.AluAddFollowsR170 := fun _ _ a b c =>
  ⟨aluAdd_truncates a b c, aluAdd_carry_iff a b c, aluAdd_overflow_iff a b c, BitVec.msb_eq_getLsbD_last _,
    beq_iff_eq⟩

/-- The addition core with all its flags written is the addition of the claims. -/
theorem aluAdd_adds {n : Nat} (a b : BitVec n) (c : Bool) (f : Flags) :
    Adds n a b c.toNat f (aluAdd a b c).value (f.withAlu (aluAdd a b c)) := by
  refine ⟨aluAdd_truncates a b c, ?carry, aluAdd_overflow_iff a b c, zeroSignFrom_of_eq rfl rfl, rfl⟩
  have hpos := Nat.two_pow_pos n
  exact (aluAdd_carry_iff a b c).trans (by omega)

/-! ### Subtraction (R171) -/

theorem aluSub_truncates {n : Nat} (a b : BitVec n) (c : Bool) :
    Truncates n (a.toNat - b.toNat - c.toNat) (aluSub a b c).value := by
  have hpos := Nat.two_pow_pos n
  have hmod : (0 : Int) ≤ ((a.toNat : Int) - b.toNat - c.toNat) % (2 ^ n : Nat) := Int.emod_nonneg _ (by omega)
  simp only [Truncates, aluSub, BitVec.toNat_ofInt, boolToInt_eq_toNat, Int.toNat_of_nonneg hmod]
  push_cast
  rfl

theorem aluSub_carry_iff {n : Nat} (a b : BitVec n) (c : Bool) :
    (aluSub a b c).carry = true ↔ (a.toNat : Int) - b.toNat - c.toNat < 0 := by
  simp only [aluSub, decide_eq_true_eq, boolToInt_eq_toNat]

theorem aluSub_overflow_iff {n : Nat} (a b : BitVec n) (c : Bool) :
    (aluSub a b c).overflow = true ↔ SignedOverflow n (a.toInt - b.toInt - c.toNat) := by
  rw [← boolToInt_eq_toNat]
  exact outOfSigned_iff n _

/-- Settles O13. -/
theorem aluSubFollowsR171 : Obligations.AluSubFollowsR171 := fun _ _ a b c =>
  ⟨aluSub_truncates a b c, aluSub_carry_iff a b c, aluSub_overflow_iff a b c, BitVec.msb_eq_getLsbD_last _,
    beq_iff_eq⟩

/-- The subtraction core with all its flags written is the subtraction of the claims. -/
theorem aluSub_subtracts {n : Nat} (a b : BitVec n) (c : Bool) (f : Flags) :
    Subtracts n a b c.toNat f (aluSub a b c).value (f.withAlu (aluSub a b c)) := by
  refine ⟨aluSub_truncates a b c, ?carry, aluSub_overflow_iff a b c, zeroSignFrom_of_eq rfl rfl, rfl⟩
  exact (aluSub_carry_iff a b c).trans (by omega)

/-! ### One step up, one step down, and the negative (R179 to R181) -/

/-- The signed value by the sign bit's half of the range. -/
theorem toInt_cases {n : Nat} (hn : 0 < n) (a : BitVec n) :
    (a.toNat < 2 ^ (n - 1) ∧ a.toInt = a.toNat) ∨
    (2 ^ (n - 1) ≤ a.toNat ∧ a.toNat < 2 * 2 ^ (n - 1) ∧ a.toInt = a.toNat - 2 * ((2 ^ (n - 1) : Nat) : Int)) := by
  have hpow : 2 ^ (n - 1) * 2 = 2 ^ n := Nat.two_pow_pred_mul_two hn
  have hlt := a.isLt
  rw [BitVec.toInt_eq_toNat_cond]
  split
  case isTrue h => exact .inl ⟨by omega, rfl⟩
  case isFalse h => exact .inr ⟨by omega, by omega, by omega⟩

/-- The ends of the signed range as casts of a natural number, so that `omega` compares them with `toNat`. -/
theorem signedOverflow_iff (n : Nat) (s : Int) :
    SignedOverflow n s ↔ s < -((2 ^ (n - 1) : Nat) : Int) ∨ ((2 ^ (n - 1) : Nat) : Int) ≤ s := by
  push_cast
  rfl

theorem signedOverflow_add_one_iff {n : Nat} (hn : 0 < n) (a : BitVec n) :
    SignedOverflow n (a.toInt + 1) ↔ a.toNat = 2 ^ (n - 1) - 1 := by
  have hpos := Nat.two_pow_pos (n - 1)
  have hcases := toInt_cases hn a
  rw [signedOverflow_iff]
  omega

theorem signedOverflow_sub_one_iff {n : Nat} (hn : 0 < n) (a : BitVec n) :
    SignedOverflow n (a.toInt - 1) ↔ a.toNat = 2 ^ (n - 1) := by
  have hcases := toInt_cases hn a
  rw [signedOverflow_iff]
  omega

theorem signedOverflow_neg_iff {n : Nat} (hn : 0 < n) (a : BitVec n) :
    SignedOverflow n (-a.toInt) ↔ a.toNat = 2 ^ (n - 1) := by
  have hcases := toInt_cases hn a
  rw [signedOverflow_iff]
  omega

theorem unEval_inc {n : Nat} (hn : 1 < n) (a : BitVec n) (f : Flags) :
    IncRelation n a f (unEval .inc a).value (f.afterUnary .inc (unEval .inc a)) := by
  have hpos : 0 < n := by omega
  have htruncates := aluAdd_truncates a 1#n false
  have hoverflow := aluAdd_overflow_iff a 1#n false
  simp only [BitVec.toNat_one hpos, BitVec.toInt_one hn, Bool.toNat_false, Int.natCast_one, Int.natCast_zero,
    Int.add_zero] at htruncates hoverflow
  exact ⟨htruncates, hoverflow.trans (signedOverflow_add_one_iff hpos a), zeroSignFrom_of_eq rfl rfl, rfl, rfl⟩

theorem unEval_dec {n : Nat} (hn : 1 < n) (a : BitVec n) (f : Flags) :
    DecRelation n a f (unEval .dec a).value (f.afterUnary .dec (unEval .dec a)) := by
  have hpos : 0 < n := by omega
  have htruncates := aluSub_truncates a 1#n false
  have hoverflow := aluSub_overflow_iff a 1#n false
  simp only [BitVec.toNat_one hpos, BitVec.toInt_one hn, Bool.toNat_false, Int.natCast_one, Int.natCast_zero,
    Int.sub_zero] at htruncates hoverflow
  exact ⟨htruncates, hoverflow.trans (signedOverflow_sub_one_iff hpos a), zeroSignFrom_of_eq rfl rfl, rfl, rfl⟩

theorem unEval_neg {n : Nat} (hn : 1 < n) (a : BitVec n) (f : Flags) :
    NegRelation n a f (unEval .neg a).value (f.afterUnary .neg (unEval .neg a)) := by
  have htruncates := aluSub_truncates 0#n a false
  have hcarry := aluSub_carry_iff 0#n a false
  have hoverflow := aluSub_overflow_iff 0#n a false
  simp only [BitVec.toNat_zero, BitVec.toInt_zero, Bool.toNat_false, Int.natCast_zero, Int.zero_sub, Int.sub_zero]
    at htruncates hcarry hoverflow
  exact ⟨htruncates, hcarry.trans (by omega), hoverflow.trans (signedOverflow_neg_iff (by omega) a),
    zeroSignFrom_of_eq rfl rfl, rfl⟩

end Sys2Proof.Machine
end

section
/-! The Binary and the Unary instructions in every operand form (30_encoding R131, R134; 40_arithmetic R173 to R181):
what an operation computes is said once for operands that can be read, and carried to every form. -/

namespace Sys2Proof.Machine

/-! ### The flags and one location written

`P` is what the operation demands of the result and of the flags after. -/

theorem writesFlags_reg8 {o : Result State} {s : State} {d : Reg8} {P : Byte → Flags → Prop}
    (h : ∃ r g, o = (s.setFlags g).writeLoc8 (.reg d) r ∧ P r g) :
    ∃ t, o = .next t ∧ OnlyReg8 s t d ∧ P (t.reg8 d) t.flags := by
  obtain ⟨r, g, rfl, hP⟩ := h
  obtain ⟨houtside, hip, hmemory, hsp, hothers⟩ := setReg8_only (s.setFlags g) d r
  refine ⟨_, rfl, ⟨houtside.of_setFlags, hip, hmemory, hsp, ?others⟩, ?result⟩
  case others => simpa using hothers
  case result => simpa using hP

theorem writesFlags_reg16 {o : Result State} {s : State} {d : Reg16} {P : Word → Flags → Prop}
    (h : ∃ r g, o = (s.setFlags g).writeLoc16 (.reg d) r ∧ P r g) :
    ∃ t, o = .next t ∧ OnlyReg16 s t d ∧ P (t.reg16 d) t.flags := by
  obtain ⟨r, g, rfl, hP⟩ := h
  obtain ⟨houtside, hip, hmemory, hothers⟩ := setReg16_only (s.setFlags g) d r
  refine ⟨_, rfl, ⟨houtside.of_setFlags, hip, hmemory, ?others⟩, ?result⟩
  case others => simpa using hothers
  case result => simpa using hP

theorem writesFlags_byte {o : Result State} {s : State} {a : Word} {P : Byte → Flags → Prop} (hm : s.mem.wf = true)
    (ha : ByteIn a) (h : ∃ r g, o = (s.setFlags g).writeLoc8 (.mem a) r ∧ P r g) :
    ∃ t, o = .next t ∧ OnlyByte s t a ∧ P (t.byteAt a) t.flags := by
  obtain ⟨r, g, rfl, hP⟩ := h
  obtain ⟨t, hnext, hresult, hothers, ht⟩ := memWrite8_frame (s := s.setFlags g) hm ha r
  refine ⟨t, hnext, ?frame, ?result⟩
  case frame => rw [ht]; exact ⟨rfl, rfl, fun q => by cases q <;> rfl, hothers⟩
  case result => rw [hresult, ht]; exact hP

theorem writesFlags_word {o : Result State} {s : State} {a : Word} {P : Word → Flags → Prop} (hm : s.mem.wf = true)
    (ha : WordIn a) (h : ∃ r g, o = (s.setFlags g).writeLoc16 (.mem a) r ∧ P r g) :
    ∃ t, o = .next t ∧ OnlyWord s t a ∧ P (t.wordAt a) t.flags := by
  obtain ⟨r, g, rfl, hP⟩ := h
  obtain ⟨t, hnext, hlow, hhigh, hothers, ht⟩ := memWrite16_frame (s := s.setFlags g) hm ha r
  have hresult : t.wordAt a = r := by
    apply BitVec.eq_of_toNat_eq
    rw [wordAt_toNat, State.wordNatAt]
    omega
  refine ⟨t, hnext, ?frame, ?result⟩
  case frame => rw [ht]; exact ⟨rfl, rfl, fun q => by cases q <;> rfl, hothers⟩
  case result => rw [hresult, ht]; exact hP

/-! ### The Binary class -/

/-- From the two sizes to the sixteen form and size combinations: it is enough that on operands that can be read the
instruction writes the flags and the destination as `R` says. -/
theorem binaryForms_of_writes {op : BinOp} {R : AluRelation} {s : State} (hm : s.mem.wf = true)
    (h8 : ∀ {f dst src a b}, binOperands f s = .byte dst src →
      s.readLoc8 dst = .next a → s.readSrc8 src = .next b →
      ∃ r g, exec (.ofBin op f) s = (s.setFlags g).writeLoc8 dst r ∧ R 8 a b s.flags r g)
    (h16 : ∀ {f dst src a b}, binOperands f s = .word dst src →
      s.readLoc16 dst = .next a → s.readSrc16 src = .next b →
      ∃ r g, exec (.ofBin op f) s = (s.setFlags g).writeLoc16 dst r ∧ R 16 a b s.flags r g) :
    BinaryForms op R s where
  regReg8 _ _ := writesFlags_reg8 (h8 rfl rfl rfl)
  regReg16 _ _ := writesFlags_reg16 (h16 rfl rfl rfl)
  regBx8 _ hbx := writesFlags_reg8 (h8 rfl rfl (memRead8_of_in hbx))
  regBx16 _ hbx := writesFlags_reg16 (h16 rfl rfl (memRead16_of_in hbx))
  regMem8 _ _ ha := writesFlags_reg8 (h8 rfl rfl (memRead8_of_in ha))
  regMem16 _ _ ha := writesFlags_reg16 (h16 rfl rfl (memRead16_of_in ha))
  bxReg8 _ hbx := writesFlags_byte hm hbx (h8 rfl (memRead8_of_in hbx) rfl)
  bxReg16 _ hbx := writesFlags_word hm hbx (h16 rfl (memRead16_of_in hbx) rfl)
  memReg8 _ _ ha := writesFlags_byte hm ha (h8 rfl (memRead8_of_in ha) rfl)
  memReg16 _ _ ha := writesFlags_word hm ha (h16 rfl (memRead16_of_in ha) rfl)
  regImm8 _ _ := writesFlags_reg8 (h8 rfl rfl rfl)
  regImm16 _ _ := writesFlags_reg16 (h16 rfl rfl rfl)
  bxImm8 _ hbx := writesFlags_byte hm hbx (h8 rfl (memRead8_of_in hbx) rfl)
  bxImm16 _ hbx := writesFlags_word hm hbx (h16 rfl (memRead16_of_in hbx) rfl)
  memImm8 _ _ ha := writesFlags_byte hm ha (h8 rfl (memRead8_of_in ha) rfl)
  memImm16 _ _ ha := writesFlags_word hm ha (h16 rfl (memRead16_of_in ha) rfl)

/-- An operation of the ALU meets `R` in every form when the ALU's outputs do at every width (R173, R200). -/
theorem binaryForms_of_eval {op : BinOp} {alu : AluOp} {R : AluRelation} {s : State} (hop : binBody op = binary alu)
    (hm : s.mem.wf = true)
    (hR : ∀ {n : Nat} (a b : BitVec n) (f : Flags),
      R n a b f (alu.eval a b f.carry).value (f.withAlu (alu.eval a b f.carry))) :
    BinaryForms op R s := by
  refine binaryForms_of_writes hm (fun {f dst src a b} hf ha hb => ⟨_, _, ?byte, hR a b s.flags⟩)
    (fun {f dst src a b} hf ha hb => ⟨_, _, ?word, hR a b s.flags⟩)
  case byte => simp only [exec_ofBin, hop, hf, binary, ha, hb, andThen_next]
  case word => simp only [exec_ofBin, hop, hf, binary, ha, hb, andThen_next]

/-- Settles O15: ADD is the addition without carry-in. -/
theorem addInEveryForm : Obligations.AddInEveryForm := fun _ hm =>
  binaryForms_of_eval (alu := .add) rfl hm fun a b f => aluAdd_adds a b false f

/-- Settles O16: ADC is the addition with the old CF as carry-in. -/
theorem adcInEveryForm : Obligations.AdcInEveryForm := fun _ hm =>
  binaryForms_of_eval (alu := .adc) rfl hm fun a b f => aluAdd_adds a b f.carry f

/-- Settles O17: SUB is the subtraction without borrow-in. -/
theorem subInEveryForm : Obligations.SubInEveryForm := fun _ hm =>
  binaryForms_of_eval (alu := .sub) rfl hm fun a b f => aluSub_subtracts a b false f

/-- Settles O18: SBB is the subtraction with the old CF as borrow-in. -/
theorem sbbInEveryForm : Obligations.SbbInEveryForm := fun _ hm =>
  binaryForms_of_eval (alu := .sbb) rfl hm fun a b f => aluSub_subtracts a b f.carry f

/-! ### CMP (R178) -/

theorem setFlags_onlyFlags (s : State) (g : Flags) : OnlyFlags s (s.setFlags g) :=
  ⟨rfl, rfl, reg16_setFlags s g, fun _ => rfl⟩

/-- CMP of two bytes that can be read. -/
theorem exec_cmp_byte {f : BinForm} {s : State} {dst : Loc8} {src : Src8} {a b : Byte}
    (hf : binOperands f s = .byte dst src) (ha : s.readLoc8 dst = .next a) (hb : s.readSrc8 src = .next b) :
    ∃ t v, exec (.ofBin .cmp f) s = .next t ∧ OnlyFlags s t ∧ SubRelation 8 a b s.flags v t.flags := by
  have hruns : exec (.ofBin .cmp f) s = .next (s.setFlags (s.flags.withAlu (aluSub a b false))) := by
    simp only [exec_ofBin, binBody, hf, compareOnly, ha, hb, andThen_next]
  exact ⟨_, _, hruns, setFlags_onlyFlags s _, aluSub_subtracts a b false s.flags⟩

/-- CMP of two words that can be read. -/
theorem exec_cmp_word {f : BinForm} {s : State} {dst : Loc16} {src : Src16} {a b : Word}
    (hf : binOperands f s = .word dst src) (ha : s.readLoc16 dst = .next a) (hb : s.readSrc16 src = .next b) :
    ∃ t v, exec (.ofBin .cmp f) s = .next t ∧ OnlyFlags s t ∧ SubRelation 16 a b s.flags v t.flags := by
  have hruns : exec (.ofBin .cmp f) s = .next (s.setFlags (s.flags.withAlu (aluSub a b false))) := by
    simp only [exec_ofBin, binBody, hf, compareOnly, ha, hb, andThen_next]
  exact ⟨_, _, hruns, setFlags_onlyFlags s _, aluSub_subtracts a b false s.flags⟩

/-- Settles O19: each form gives two operands that can be read. -/
theorem cmpWritesOnlyFlags : Obligations.CmpWritesOnlyFlags := fun _ =>
  { regReg8 := fun _ _ => exec_cmp_byte rfl rfl rfl
    regReg16 := fun _ _ => exec_cmp_word rfl rfl rfl
    regBx8 := fun _ hbx => exec_cmp_byte rfl rfl (memRead8_of_in hbx)
    regBx16 := fun _ hbx => exec_cmp_word rfl rfl (memRead16_of_in hbx)
    regMem8 := fun _ _ ha => exec_cmp_byte rfl rfl (memRead8_of_in ha)
    regMem16 := fun _ _ ha => exec_cmp_word rfl rfl (memRead16_of_in ha)
    bxReg8 := fun _ hbx => exec_cmp_byte rfl (memRead8_of_in hbx) rfl
    bxReg16 := fun _ hbx => exec_cmp_word rfl (memRead16_of_in hbx) rfl
    memReg8 := fun _ _ ha => exec_cmp_byte rfl (memRead8_of_in ha) rfl
    memReg16 := fun _ _ ha => exec_cmp_word rfl (memRead16_of_in ha) rfl
    regImm8 := fun _ _ => exec_cmp_byte rfl rfl rfl
    regImm16 := fun _ _ => exec_cmp_word rfl rfl rfl
    bxImm8 := fun _ hbx => exec_cmp_byte rfl (memRead8_of_in hbx) rfl
    bxImm16 := fun _ hbx => exec_cmp_word rfl (memRead16_of_in hbx) rfl
    memImm8 := fun _ _ ha => exec_cmp_byte rfl (memRead8_of_in ha) rfl
    memImm16 := fun _ _ ha => exec_cmp_word rfl (memRead16_of_in ha) rfl }

/-! ### The Unary class -/

/-- A Unary instruction on a byte that can be read. -/
theorem exec_ofUn_byte {op : UnOp} {R : UnaryRelation} {f : UnForm} {s : State} {l : Loc8} {a : Byte}
    (hR : R 8 a s.flags (unEval op a).value (s.flags.afterUnary op (unEval op a)))
    (hf : unOperand f s = .byte l) (ha : s.readLoc8 l = .next a) :
    ∃ r g, exec (.ofUn op f) s = (s.setFlags g).writeLoc8 l r ∧ R 8 a s.flags r g := by
  refine ⟨_, _, ?runs, hR⟩
  simp only [exec_ofUn, hf, unary, ha, andThen_next]

/-- A Unary instruction on a word that can be read. -/
theorem exec_ofUn_word {op : UnOp} {R : UnaryRelation} {f : UnForm} {s : State} {l : Loc16} {a : Word}
    (hR : R 16 a s.flags (unEval op a).value (s.flags.afterUnary op (unEval op a)))
    (hf : unOperand f s = .word l) (ha : s.readLoc16 l = .next a) :
    ∃ r g, exec (.ofUn op f) s = (s.setFlags g).writeLoc16 l r ∧ R 16 a s.flags r g := by
  refine ⟨_, _, ?runs, hR⟩
  simp only [exec_ofUn, hf, unary, ha, andThen_next]

/-- A Unary operation meets `R` on every operand when the ALU's outputs do.  A width of one bit is left out: there `1#1`
is the number -1. -/
theorem unaryForms_of_eval {op : UnOp} {R : UnaryRelation} {s : State} (hm : s.mem.wf = true)
    (hR : ∀ {n : Nat} (_ : 1 < n) (a : BitVec n) (f : Flags),
      R n a f (unEval op a).value (f.afterUnary op (unEval op a))) :
    UnaryForms op R s where
  reg8 _ := writesFlags_reg8 (exec_ofUn_byte (hR (by decide) _ _) rfl rfl)
  reg16 _ := writesFlags_reg16 (exec_ofUn_word (hR (by decide) _ _) rfl rfl)
  bx8 hbx := writesFlags_byte hm hbx (exec_ofUn_byte (hR (by decide) _ _) rfl (memRead8_of_in hbx))
  bx16 hbx := writesFlags_word hm hbx (exec_ofUn_word (hR (by decide) _ _) rfl (memRead16_of_in hbx))
  mem8 _ ha := writesFlags_byte hm ha (exec_ofUn_byte (hR (by decide) _ _) rfl (memRead8_of_in ha))
  mem16 _ ha := writesFlags_word hm ha (exec_ofUn_word (hR (by decide) _ _) rfl (memRead16_of_in ha))

/-- Settles O23. -/
theorem incOfEveryOperand : Obligations.IncOfEveryOperand := fun _ hm => unaryForms_of_eval hm unEval_inc

/-- Settles O24. -/
theorem decOfEveryOperand : Obligations.DecOfEveryOperand := fun _ hm => unaryForms_of_eval hm unEval_dec

/-- Settles O25. -/
theorem negOfEveryOperand : Obligations.NegOfEveryOperand := fun _ hm => unaryForms_of_eval hm unEval_neg

end Sys2Proof.Machine
end

section
/-! The logic instructions in every operand form (41_logic R200 to R204): the flags are said once for any result of the
ALU's logic core, so that of each operation only its bits are left. -/

namespace Sys2Proof.Machine

/-! ### The ALU's logic core (R200) -/

/-- The flags after a logic result do not depend on how it was computed. -/
theorem withAlu_aluLogic {n : Nat} (f : Flags) (r : BitVec n) :
    (f.withAlu (aluLogic r)).carry = false ∧ (f.withAlu (aluLogic r)).overflow = false ∧
    ZeroSignFrom (f.withAlu (aluLogic r)) r ∧ (f.withAlu (aluLogic r)).interrupt = f.interrupt :=
  ⟨rfl, rfl, zeroSignFrom_of_eq rfl rfl, rfl⟩

/-- A result that combines the operands bit by bit meets the claims' relation with the core's flags. -/
theorem aluLogic_combines {n : Nat} {op : Bool → Bool → Bool} {a b r : BitVec n} (f : Flags)
    (hbits : ∀ i < n, r.getLsbD i = op (a.getLsbD i) (b.getLsbD i)) :
    Combines op n a b f (aluLogic r).value (f.withAlu (aluLogic r)) :=
  ⟨hbits, withAlu_aluLogic f r⟩

theorem unEval_not {n : Nat} (a : BitVec n) (f : Flags) :
    NotRelation n a f (unEval .not a).value (f.afterUnary .not (unEval .not a)) := by
  have hbits : ∀ i < n, (~~~a).getLsbD i = !a.getLsbD i := fun i hi => by
    simp only [BitVec.getLsbD_not, hi, decide_true, Bool.true_and]
  exact ⟨hbits, withAlu_aluLogic f (~~~a)⟩

/-! ### The instructions (R201 to R204) -/

/-- Settles O20: AND is the ALU's `&&&`, bit by bit. -/
theorem andInEveryForm : Obligations.AndInEveryForm := fun _ hm =>
  binaryForms_of_eval (alu := .and) rfl hm fun _ _ f => aluLogic_combines f fun _ _ => BitVec.getLsbD_and

/-- Settles O21: OR is the ALU's `|||`, bit by bit. -/
theorem orInEveryForm : Obligations.OrInEveryForm := fun _ hm =>
  binaryForms_of_eval (alu := .or) rfl hm fun _ _ f => aluLogic_combines f fun _ _ => BitVec.getLsbD_or

/-- Settles O22: XOR is the ALU's `^^^`, bit by bit. -/
theorem xorInEveryForm : Obligations.XorInEveryForm := fun _ hm =>
  binaryForms_of_eval (alu := .xor) rfl hm fun _ _ f => aluLogic_combines f fun _ _ => BitVec.getLsbD_xor

/-- Settles O26: NOT is the ALU's `~~~`, at every width. -/
theorem notOfEveryOperand : Obligations.NotOfEveryOperand := fun _ hm =>
  unaryForms_of_eval hm fun _ => unEval_not

end Sys2Proof.Machine
end

section
/-! MOV in every operand form (42_data_move R210, R211): a write of the source after which the flags are those of
before. -/

namespace Sys2Proof.Machine

theorem setFlags_own (s : State) : s.setFlags s.flags = s := rfl

/-- MOV of a byte that can be read, whatever the destination. -/
theorem exec_mov_byte {f : BinForm} {s : State} {dst : Loc8} {src : Src8} {b : Byte}
    (hf : binOperands f s = .byte dst src) (hb : s.readSrc8 src = .next b) :
    exec (.ofBin .mov f) s = s.writeLoc8 dst b := by
  simp only [exec_ofBin, binBody, hf, move, hb, andThen_next]

/-- MOV of a word that can be read, whatever the destination. -/
theorem exec_mov_word {f : BinForm} {s : State} {dst : Loc16} {src : Src16} {b : Word}
    (hf : binOperands f s = .word dst src) (hb : s.readSrc16 src = .next b) :
    exec (.ofBin .mov f) s = s.writeLoc16 dst b := by
  simp only [exec_ofBin, binBody, hf, move, hb, andThen_next]

/-- Settles O14: MOV only writes its source at the destination, which is that write with the old flags kept. -/
theorem movCopiesSource : Obligations.MovCopiesSource := by
  intro s hm
  refine binaryForms_of_writes hm (fun {f dst src a b} hf _ hb => ⟨b, s.flags, ?byte, rfl, rfl⟩)
    (fun {f dst src a b} hf _ hb => ⟨b, s.flags, ?word, rfl, rfl⟩)
  case byte => rw [setFlags_own, exec_mov_byte hf hb]
  case word => rw [setFlags_own, exec_mov_word hf hb]

end Sys2Proof.Machine
end

section
/-! The stack instructions and the faults of the stack (43_stack R215 to R218): PUSH and POP of every word register, and
which fault a push or a pop outside its bounds raises, in an instruction and in the entry of a hardware interrupt. -/

namespace Sys2Proof.Machine

/-! ### PUSH and POP (R217, R218) -/

/-- Settles O33. -/
theorem pushStoresRegister : Obligations.PushStoresRegister := by
  intro s r hm hcan
  have hpush := push16_of_can hcan (s.reg16 r)
  obtain ⟨hip, hflags⟩ := push16_ip_flags hpush
  exact ⟨_, hpush, push16_pushed hm hpush, hip, hflags⟩

/-- POP writes its register after `SP` has moved (R216, D30). -/
theorem exec_pop_of_can {s : State} (h : CanPop s) (r : Reg16) :
    exec (.pop r) s = .next ((s.setReg16 .sp (s.sp + 2#16)).setReg16 r (s.wordAt s.sp)) := by
  change andThen s.pop16 _ = _
  rw [pop16_of_can h, andThen_next]
  rfl

/-- Settles O34: two register writes, the second over the first where the register is `SP`. -/
theorem popLoadsRegister : Obligations.PopLoadsRegister := by
  intro s r hcan
  obtain ⟨houtside, hip, hmemory, -⟩ := setReg16_only (s.setReg16 .sp (s.sp + 2#16)) r (s.wordAt s.sp)
  refine ⟨_, exec_pop_of_can hcan r, ?popped, fun hr => ?sp, fun q hqr hq => ?others, houtside, hmemory, hip,
    setReg16_flags _ r _⟩
  case popped => rw [reg16_setReg16, if_pos rfl, wordAt_toNat]
  case sp =>
    have hsp := reg16_setReg16 (s.setReg16 .sp (s.sp + 2#16)) r .sp (s.wordAt s.sp)
    rw [if_neg hr.symm] at hsp
    exact (congrArg BitVec.toNat hsp).trans (add_two_toNat hcan)
  case others => rw [reg16_setReg16, if_neg hqr, reg16_setReg16, if_neg hq]

/-! ### Faults of one push and of one pop (R215, R216) -/

theorem andThen_of_fault {α β : Type} {o : Result α} {r : Fault} (h : o = .fault r) (k : α → Result β) :
    andThen o k = .fault r := by
  rw [h, andThen_fault]

/-- Each instruction that pushes does so first: it raises what its push raises. -/
theorem exec_fault_of_push16 {s : State} {f : Fault} (h : ∀ v, s.push16 v = .fault f) (r : Reg16) (addr : Word)
    (n : Byte) : ∀ i ∈ [Instr.push r, .pushf, .call addr, .intN n, .int6, .int7], exec i s = .fault f := by
  simp only [List.forall_mem_cons]
  exact ⟨h _, h _, andThen_of_fault (h _) _, andThen_of_fault (h _) _, andThen_of_fault (h _) _,
    andThen_of_fault (h _) _, List.forall_mem_nil _⟩

/-- Each instruction that pops does so first: it raises what its pop raises. -/
theorem exec_fault_of_pop16 {s : State} {f : Fault} (h : s.pop16 = .fault f) (r : Reg16) :
    ∀ i ∈ [Instr.pop r, .popf, .ret, .iret], exec i s = .fault f := by
  simp only [List.forall_mem_cons]
  exact ⟨andThen_of_fault h _, andThen_of_fault h _, andThen_of_fault h _, andThen_of_fault h _, List.forall_mem_nil _⟩

/-! ### Faults of two pushes and of two pops (R242, R246, R270) -/

/-- The entry of an interrupt overflows at its first push with `SP < 2`, and else at its second. -/
theorem enterInterrupt_overflow {s : State} (h : s.sp.toNat < 4) (id : Byte) :
    s.enterInterrupt id = .fault (.stackOverflow s.console) := by
  by_cases h2 : s.sp.toNat < 2
  case pos => exact andThen_of_fault (push16_overflow h2 _) _
  case neg =>
    have hsub : (s.sp - 2#16).toNat < 2 := by rw [sub_two_toNat (by omega)]; omega
    rw [State.enterInterrupt, push16_of_can (by omega), andThen_next]
    exact andThen_of_fault (push16_overflow hsub _) _

theorem enterInterrupt_outside {s : State} (h : 0x4000 < s.sp.toNat) (id : Byte) :
    s.enterInterrupt id = .fault (.memoryOutOfRange s.console) :=
  andThen_of_fault (push16_outside h _) _

/-- The return from an interrupt underflows at its first pop with `SP > 3FFEh`, and else at its second. -/
theorem returnFromInterrupt_underflow {s : State} (h : ¬ CanPopTwice s) :
    s.returnFromInterrupt = .fault (.stackUnderflow s.console) := by
  by_cases hcan : CanPop s
  case neg => exact andThen_of_fault (pop16_underflow hcan) _
  case pos =>
    have hadd : ¬ (s.sp + 2#16).toNat ≤ 0x3FFE := by rw [add_two_toNat hcan]; omega
    rw [State.returnFromInterrupt, pop16_of_can hcan, andThen_next]
    exact andThen_of_fault (pop16_underflow hadd) _

/-! ### The hardware entry (R275, R277, R292) -/

/-- The priority encoder: the least bit that is set (R277). -/
theorem lowestLine_eq_some_iff {b : Byte} {n : Fin 8} :
    lowestLine b = some n ↔ b.getLsbD n = true ∧ ∀ k : Nat, k < n → b.getLsbD k = false := by
  have hlines : lowestLine b = (List.finRange 8).find? fun k : Fin 8 => b.getLsbD k.val := rfl
  rw [hlines, List.find?_eq_some_iff_getElem]
  simp only [List.getElem_finRange, Bool.not_eq_true', List.length_finRange]
  constructor
  · rintro ⟨hset, i, hi, rfl, hlow⟩
    exact ⟨hset, hlow⟩
  · rintro ⟨hset, hlow⟩
    exact ⟨hset, n, n.isLt, rfl, hlow⟩

theorem lowestLine_of_selected {s : State} {line : Fin 8} (h : Selected s line) :
    lowestLine s.pic.eligible = some line := by
  obtain ⟨-, -, hrequested, hunmasked, hlowest⟩ := h
  have heligible : ∀ k : Nat, k < 8 → s.pic.eligible.getLsbD k = (s.pic.irr.getLsbD k && !s.pic.imr.getLsbD k) := by
    intro k hk
    simp [Pic.eligible, hk]
  refine lowestLine_eq_some_iff.2 ⟨?set, fun k hk => ?low⟩
  case set => rw [heligible line line.isLt, hrequested, hunmasked]; rfl
  case low =>
    rw [heligible k (by omega)]
    have hmasked := hlowest k hk
    cases hirr : s.pic.irr.getLsbD k
    · rfl
    · rw [hmasked hirr]; rfl

/-- A selected line whose vector is not reserved is acknowledged, and its vector is the one to enter (R275, R278). -/
theorem picUpdate_of_selected {s : State} {line : Fin 8} (h : Selected s line)
    (hvec : s.pic.vec[line] ∉ s.params.reservedIds) :
    picUpdate s = .next (some s.pic.vec[line], { s with pic := s.pic.acknowledge line }) := by
  have hfree : s.params.reservedIds.contains (s.pic.vec.get line) = false := by
    simpa using (show s.pic.vec.get line ∉ s.params.reservedIds from hvec)
  simp only [picUpdate, h.idle, h.enabled, lowestLine_of_selected h, hfree]
  rfl

/-- A boundary at which a hardware interrupt is due is the entry of its vector, after the host events (R292; log 3). -/
theorem boundary_of_selected {s u : State} {line : Fin 8} (he : AfterEvents s u) (h : Selected u line)
    (hvec : u.pic.vec[line] ∉ u.params.reservedIds) :
    boundary s = ({ u with pic := u.pic.acknowledge line } : State).enterInterrupt u.pic.vec[line] := by
  rw [boundary_of_afterEvents he, serviceInterrupts, picUpdate_of_selected h hvec, andThen_next]

/-- What the entry of a due interrupt raises, the boundary raises, and so does the step (R292). -/
theorem hardwareEntry_fault {s u : State} {line : Fin 8} {f : Fault} (hs : Running s) (he : AfterEvents s u)
    (h : Selected u line) (hvec : u.pic.vec[line] ∉ u.params.reservedIds)
    (hf : ({ u with pic := u.pic.acknowledge line } : State).enterInterrupt u.pic.vec[line] = .fault f) :
    boundary s = .fault f ∧ step s = .fault f := by
  have hboundary : boundary s = .fault f := (boundary_of_selected he h hvec).trans hf
  exact ⟨hboundary, stepWith_of_boundary_fault hs hboundary⟩

/-- Settles O36. -/
theorem stackBoundsFault : Obligations.StackBoundsFault := by
  refine fun s r addr n =>
    ⟨fun h => exec_fault_of_push16 (push16_overflow h) r addr n,
      fun h => exec_fault_of_push16 (push16_outside h) r addr n,
      fun h => exec_fault_of_pop16 (pop16_underflow (by omega)) r,
      fun h => enterInterrupt_overflow (by omega) n, fun h => returnFromInterrupt_underflow (by omega),
      fun u line hs he hsel hvec => ?hardware⟩
  case hardware =>
    exact ⟨fun h => hardwareEntry_fault hs he hsel hvec
        (enterInterrupt_overflow (s := { u with pic := u.pic.acknowledge line }) h _),
      fun h => hardwareEntry_fault hs he hsel hvec
        (enterInterrupt_outside (s := { u with pic := u.pic.acknowledge line }) h _)⟩

end Sys2Proof.Machine
end

section
/-! Control transfer (45_control R230 to R243; 60_exceptions R270 to R272): the jumps, CALL and RET, and
the return of IRET over what the entry of a vector has pushed. -/

namespace Sys2Proof.Machine

/-! ### Jumps (R230 to R239) -/

/-- A jump whose condition is a flag being set. -/
theorem jumpIf_of_holds {k : Cond} {s : State} {b : Bool} (h : k.holds s.flags = b) (addr : Word) :
    jumpIf k addr s = .next { s with ip := if b then addr else s.ip } := by
  cases b <;> rw [jumpIf, h] <;> rfl

/-- A jump whose condition is a flag being clear. -/
theorem jumpIf_of_holds_not {k : Cond} {s : State} {b : Bool} (h : k.holds s.flags = !b) (addr : Word) :
    jumpIf k addr s = .next { s with ip := if b then s.ip else addr } := by
  rw [jumpIf_of_holds h]
  cases b <;> rfl

/-- Settles O42: each condition of R137's table is one flag, set or clear. -/
theorem jumpsMoveOnlyIp : Obligations.JumpsMoveOnlyIp := fun _ addr =>
  ⟨rfl, jumpIf_of_holds rfl addr, jumpIf_of_holds_not rfl addr, jumpIf_of_holds rfl addr,
    jumpIf_of_holds_not rfl addr, jumpIf_of_holds rfl addr, jumpIf_of_holds_not rfl addr, jumpIf_of_holds rfl addr,
    jumpIf_of_holds_not rfl addr⟩

/-! ### A push among other changes (R215) -/

/-- A change of `IP` after a push. -/
theorem Pushed.setIp {s t : State} {v : Nat} (h : Pushed s t v) (addr : Word) : Pushed s (t.setIp addr) v where
  outside := h.outside.trans rfl
  sp := h.sp
  registers := h.registers
  word := h.word
  others := h.others

/-- A push after a change of `IF`. -/
theorem Pushed.of_setInterrupt {s t : State} {b : Bool} {v : Nat} (h : Pushed (s.setInterrupt b) t v) :
    Pushed s t v where
  outside := SameOutside.trans (t := s.setInterrupt b) rfl h.outside
  sp := h.sp
  registers := h.registers
  word := h.word
  others := h.others

/-- `SP` before a push is `SP` after it, two higher. -/
theorem Pushed.sp_add_two {s t : State} {v : Nat} (h : Pushed s t v) : t.sp + 2#16 = s.sp := by
  have hsp := h.sp
  have := s.sp.isLt
  apply BitVec.eq_of_toNat_eq
  simp [BitVec.toNat_add]; omega

/-- A word that a push does not touch keeps its number. -/
theorem Pushed.wordNatAt_above {s t : State} {v : Nat} {a : Word} (h : Pushed s t v) (ha : s.sp.toNat ≤ a.toNat) :
    t.wordNatAt a = s.wordNatAt a := by
  have hsp := h.sp
  simp only [State.wordNatAt, h.others a.toNat (by omega) (by omega), h.others (a.toNat + 1) (by omega) (by omega)]

/-! ### The general registers but `SP`, and a word of memory by its number -/

theorem SameRegistersButSp.trans {s t u : State} (h : SameRegistersButSp s t) (h' : SameRegistersButSp t u) :
    SameRegistersButSp s u := by
  obtain ⟨hax, hbx, hcx, hdx⟩ := h
  obtain ⟨hax', hbx', hcx', hdx'⟩ := h'
  exact ⟨hax'.trans hax, hbx'.trans hbx, hcx'.trans hcx, hdx'.trans hdx⟩

theorem SameRegistersButSp.sameRegisters {s t : State} (h : SameRegistersButSp s t) (hsp : t.sp = s.sp) :
    SameRegisters s t := by
  obtain ⟨hax, hbx, hcx, hdx⟩ := h
  intro r
  cases r with
  | ax => exact hax
  | bx => exact hbx
  | cx => exact hcx
  | dx => exact hdx
  | sp => exact hsp

theorem wordAt_eq_of_wordNatAt {s : State} {a v : Word} (h : s.wordNatAt a = v.toNat) : s.wordAt a = v := by
  apply BitVec.eq_of_toNat_eq
  rw [wordAt_toNat, h]

/-! ### CALL and RET (R240, R241) -/

theorem exec_call_of_push16 {s t : State} (h : s.push16 s.ip = .next t) (addr : Word) :
    exec (.call addr) s = .next (t.setIp addr) := by
  change andThen (s.push16 s.ip) _ = _
  rw [h, andThen_next]

theorem exec_ret_of_can {s : State} (h : CanPop s) :
    exec .ret s = .next (({ s with sp := s.sp + 2#16 } : State).setIp (s.wordAt s.sp)) := by
  change andThen s.pop16 _ = _
  rw [pop16_of_can h, andThen_next]

/-- Settles O43: CALL is a push and then a write of `IP`, RET a pop into `IP`. -/
theorem callAndRetMoveIp : Obligations.CallAndRetMoveIp := by
  refine fun s addr => ⟨fun hm hcan => ?call, fun hcan => ?ret⟩
  case call =>
    have hpush := push16_of_can hcan s.ip
    have hcall := exec_call_of_push16 hpush addr
    exact ⟨_, hcall, (push16_pushed hm hpush).setIp addr, rfl, execCall_flags hcall⟩
  case ret =>
    exact ⟨_, exec_ret_of_can hcan, wordAt_toNat s s.sp, add_two_toNat hcan, ⟨rfl, rfl, rfl, rfl⟩, rfl, fun _ => rfl,
      rfl⟩

/-! ### IRET (R242, R272) -/

/-- `SP` after two pops does not wrap. -/
theorem add_four_toNat {w : Word} (h : w.toNat ≤ 0x3FFC) : (w + 4#16).toNat = w.toNat + 4 := by
  simp [BitVec.toNat_add]; omega

theorem exec_iret_of_can {s : State} (h : CanPopTwice s) :
    exec .iret s =
      .next ((({ s with sp := s.sp + 4#16 } : State).setIp (s.wordAt s.sp)).loadFlags (s.wordAt (s.sp + 2#16))) :=
  returnFromInterrupt_eq_next.2 ⟨h, rfl⟩

/-- Settles O44. -/
theorem iretPopsIpAndFlags : Obligations.IretPopsIpAndFlags := fun s hcan =>
  ⟨_, exec_iret_of_can hcan, wordAt_toNat s s.sp, wordAt_toNat s (s.sp + 2#16) ▸ flagsFrom_ofWord _,
    add_four_toNat hcan, ⟨rfl, rfl, rfl, rfl⟩, rfl, fun _ => rfl⟩

/-! ### The entry of a vector (R246, R270) -/

theorem ivtAddress_eq (id : Byte) : ivtAddress id = BitVec.ofNat 16 (4 * id.toNat) := by
  apply BitVec.eq_of_toNat_eq
  simp [ivtAddress, BitVec.toNat_mul]

/-- The entry of a vector is two pushes, FLAGS and then `IP`, with `IF` cleared between them, and the load of `IP`. -/
theorem enterInterrupt_pushed {s t : State} {id : Byte} (hm : s.mem.wf = true) (h : s.enterInterrupt id = .next t) :
    (∃ u, Pushed s u (flagsNat s.flags) ∧ Pushed u t s.ip.toNat) ∧ t.ip = t.wordAt (ivtAddress id) := by
  obtain ⟨u, hpushFlags, h⟩ := andThen_eq_next.1 h
  obtain ⟨w, hpushIp, h⟩ := andThen_eq_next.1 h
  obtain ⟨target, htarget, h⟩ := andThen_eq_next.1 h
  obtain ⟨-, rfl⟩ := memRead16_eq_next.1 htarget
  cases h
  have hmu : (u.setInterrupt false).mem.wf = true := (push16_keepsDevices hpushFlags).memory hm
  exact ⟨⟨u, toWord_toNat s.flags ▸ push16_pushed hm hpushFlags,
    ((push16_pushed hmu hpushIp).setIp _).of_setInterrupt⟩, rfl⟩

/-- What the entry of a vector leaves, in canonical memory (R246, R270). -/
theorem enterInterrupt_entered {s t : State} {id : Byte} (hm : s.mem.wf = true) (h : s.enterInterrupt id = .next t) :
    EnteredVector s t id s.ip ∧ SameOutside s t := by
  obtain ⟨⟨u, hfirst, hsecond⟩, hip⟩ := enterInterrupt_pushed hm h
  have hsp := hfirst.sp
  have hsp' := hsecond.sp
  refine ⟨⟨by omega, hfirst.registers.trans hsecond.registers, ?savedFlags, hsecond.word, fun b hb => ?others,
    enterInterrupt_flags h, ivtAddress_eq id ▸ hip⟩, hfirst.outside.trans hsecond.outside⟩
  case savedFlags =>
    calc t.wordNatAt (t.sp + 2#16) = t.wordNatAt u.sp := by rw [hsecond.sp_add_two]
      _ = u.wordNatAt u.sp := hsecond.wordNatAt_above (Nat.le_refl _)
      _ = flagsNat s.flags := hfirst.word
  case others => rw [hsecond.others b (by omega) (by omega), hfirst.others b (by omega) (by omega)]

/-! ### IRET after the entry of a vector (R243) -/

/-- IRET in the state the entry of a vector leaves pops what the entry pushed. -/
theorem exec_iret_of_entered {s t : State} {id : Byte} {ret : Word} (h : EnteredVector s t id ret)
    (htop : s.sp.toNat ≤ 0x4000) :
    exec .iret t = .next { t with sp := s.sp, ip := ret, flags := s.flags } := by
  have hsp := h.sp
  have hcan : CanPopTwice t := by omega
  have hback : t.sp + 4#16 = s.sp := BitVec.eq_of_toNat_eq ((add_four_toNat hcan).trans hsp)
  have hip : t.wordAt t.sp = ret := wordAt_eq_of_wordNatAt h.savedIp
  have hflags : t.wordAt (t.sp + 2#16) = s.flags.toWord :=
    wordAt_eq_of_wordNatAt (h.savedFlags.trans (toWord_toNat s.flags).symm)
  rw [exec_iret_of_can hcan, hback, hip, hflags, State.loadFlags, ofWord_toWord]
  rfl

/-- Settles O46: IRET pops the two words the entry pushed, and the entry changed nothing else but `IF` and `IP`. -/
theorem intThenIretRestores : Obligations.IntThenIretRestores := by
  intro s t n hm hcan h
  obtain ⟨hentered, houtside⟩ := enterInterrupt_entered hm h
  have hsp := hentered.sp
  exact ⟨_, exec_iret_of_entered hentered hcan.2, SameRegistersButSp.sameRegisters hentered.registers rfl, rfl, rfl,
    houtside.trans rfl, fun b hb => hentered.others b (by omega)⟩

end Sys2Proof.Machine
end

section
/-! Software interrupts and the rest (46_misc R246 to R256): the entry of INT n, and INT 6 and INT 7 as what they do in
the state where they reach the console, after FLAGS have been pushed and `IF` cleared. -/

namespace Sys2Proof.Machine

/-! ### CLI, STI, NOP and INT 3 (R248, R253, R254, R256) -/

/-- Settles O51: each of the four meanings is one update of the state, and NOP's is none. -/
theorem simpleInstructionFrames : Obligations.SimpleInstructionFrames := fun _ => ⟨rfl, rfl, rfl, rfl⟩

/-! ### INT n (R246, R251) -/

/-- With room for both pushes the entry of a vector completes: an IVT entry always lies in memory. -/
theorem enterInterrupt_completes {s : State} (h : CanPushTwice s) (id : Byte) : ∃ t, s.enterInterrupt id = .next t :=
  ⟨_, enterInterrupt_eq_next.2 ⟨h, _, rfl, rfl⟩⟩

/-- Settles O45: INT n is the entry of vector n, with no check of `IF` or `RESERVED_IDS`. -/
theorem intEntersVector : Obligations.IntEntersVector := by
  intro s n hm hcan _
  obtain ⟨t, hnext⟩ := enterInterrupt_completes hcan n
  exact ⟨t, hnext, enterInterrupt_entered hm hnext⟩

/-! ### FLAGS pushed and `IF` cleared: where INT 6 and INT 7 reach the console (R249, R250) -/

/-- `s` after the push of FLAGS and the clearing of `IF`. -/
def State.flagsPushed (s : State) : State :=
  ({ s with sp := s.sp - 2#16, mem := s.mem.writeWord (s.sp.toNat - 2) s.flags.toWord } : State).setInterrupt false

/-- INT 7 is its console output and a pop of FLAGS, from the state after the push. -/
theorem exec_int7_of_can {s : State} (h : CanPush s) :
    exec .int7 s = andThen (printBytes (s.reg8 .al).toNat s.bx s.flagsPushed) fun t =>
      andThen t.pop16 fun (w, u) => .next (u.loadFlags w) := by
  change andThen (s.push16 s.flags.toWord) _ = _
  rw [push16_of_can h, andThen_next]
  rfl

/-- INT 6 is its console access, from the state after the push. -/
theorem exec_int6_of_can {s : State} (h : CanPush s) : exec .int6 s = awaitKeyboard s.flagsPushed := by
  change andThen (s.push16 s.flags.toWord) _ = _
  rw [push16_of_can h, andThen_next]
  rfl

/-- PUSHF makes the same push and leaves `IF`. -/
theorem exec_pushf_of_can {s : State} (h : CanPush s) :
    exec .pushf s = .next { s.flagsPushed with flags := s.flags } := push16_of_can h _

/-- A change of the flags after a push. -/
theorem Pushed.setFlags {s t : State} {v : Nat} (h : Pushed s t v) (f : Flags) : Pushed s (t.setFlags f) v where
  outside := h.outside.trans rfl
  sp := h.sp
  registers := h.registers
  word := h.word
  others := h.others

theorem flagsPushed_pushed {s : State} (hm : s.mem.wf = true) (h : CanPush s) :
    Pushed s s.flagsPushed (flagsNat s.flags) :=
  toWord_toNat s.flags ▸ (push16_pushed hm (push16_of_can h s.flags.toWord)).setFlags _

theorem flagsPushed_wf {s : State} (hm : s.mem.wf = true) (h : CanPush s) : s.flagsPushed.mem.wf = true :=
  writeWord_wf hm (by simp only [Config.memSize]; omega) _

/-- The pop takes back what the push took from `SP`. -/
theorem flagsPushed_sp_add_two {s : State} (hm : s.mem.wf = true) (h : CanPush s) :
    s.flagsPushed.sp + 2#16 = s.sp := (flagsPushed_pushed hm h).sp_add_two

/-- A pop after the push stays in memory. -/
theorem flagsPushed_canPop {s : State} (hm : s.mem.wf = true) (h : CanPush s) : CanPop s.flagsPushed := by
  have hsp := (flagsPushed_pushed hm h).sp
  omega

/-- Memory after the push, by byte: the two bytes below the old `SP`, low byte first, and the rest. -/
theorem read_flagsPushed {s : State} (hm : s.mem.wf = true) (h : CanPush s) (a : Nat) :
    s.flagsPushed.mem.read a =
      if a + 2 = s.sp.toNat then BitVec.ofNat 8 (flagsNat s.flags)
      else if a + 1 = s.sp.toNat then BitVec.ofNat 8 (flagsNat s.flags / 256)
      else s.mem.read a := by
  have hlt : s.sp.toNat - 2 + 1 < Config.memSize := by simp only [Config.memSize]; omega
  have hlow : loByte s.flags.toWord = BitVec.ofNat 8 (flagsNat s.flags) := by
    rw [← toWord_toNat]; apply BitVec.eq_of_toNat_eq; simp
  have hhigh : hiByte s.flags.toWord = BitVec.ofNat 8 (flagsNat s.flags / 256) := by
    rw [← ofNat_div_eq_hiByte, toWord_toNat]
  have hread : s.flagsPushed.mem.read a = _ := read_writeWord hm hlt s.flags.toWord a
  rw [hread, hlow, hhigh]
  by_cases ha : a + 2 = s.sp.toNat
  case pos => rw [if_pos ha, if_neg (by omega), if_pos (by omega)]
  case neg =>
    have hnext : a = s.sp.toNat - 2 + 1 ↔ a + 1 = s.sp.toNat := by omega
    rw [if_neg ha, if_neg (show a ≠ s.sp.toNat - 2 by omega)]
    simp only [hnext]

/-! ### INT 6 (R249, R287, R291) -/

/-- `s` after an INT 6 that the host has answered with `b`: `b` stored over the pushed FLAGS word, and the flags loaded
from that word as memory then stands. -/
def State.int6Done (s : State) (b : Byte) (later : List Byte) : State :=
  { s with
    mem := s.flagsPushed.mem.write s.bx.toNat b
    flags := Flags.ofWord (State.wordAt { s with mem := s.flagsPushed.mem.write s.bx.toNat b } (s.sp - 2#16))
    keyboard := later
    status := .running }

theorem int6Done_stored {s : State} (hm : s.mem.wf = true) (h : CanPush s) (b : Byte) (later : List Byte) :
    StoredOverFlags s (s.int6Done b later) b (flagsNat s.flags) := by
  intro a
  rw [← read_flagsPushed hm h]
  exact read_write (flagsPushed_wf hm h) s.bx.toNat a b

theorem int6Done_flagsFrom (s : State) (b : Byte) (later : List Byte) :
    FlagsFrom (s.int6Done b later).flags ((s.int6Done b later).wordNatAt (s.sp - 2#16)) := by
  rw [← wordAt_toNat]
  exact flagsFrom_ofWord _

/-- The end of INT 6 with `[BX]` in memory, whether the host answers at once or after a wait. -/
theorem finishInt6_of_in {s : State} (hm : s.mem.wf = true) (h : CanPush s) (hbx : ByteIn s.bx) (b : Byte)
    (later : List Byte) (status : RunStatus) :
    finishInt6 b { s.flagsPushed with keyboard := later, status := status } = .next (s.int6Done b later) := by
  have hstore := memWrite8_of_in (s := { s.flagsPushed with keyboard := later, status := status }) hbx b
  have hpop := pop16_of_can (s := { s.flagsPushed with
    mem := s.flagsPushed.mem.write s.bx.toNat b, keyboard := later, status := status }) (flagsPushed_canPop hm h)
  rw [flagsPushed_sp_add_two hm h] at hpop
  change andThen (State.memWrite8 _ s.bx b) _ = _
  rw [hstore, andThen_next, hpop]
  rfl

/-- The end of INT 6 with `[BX]` outside memory. -/
theorem finishInt6_of_out {s : State} (hbx : ¬ ByteIn s.bx) (b : Byte) (later : List Byte) (status : RunStatus) :
    finishInt6 b { s.flagsPushed with keyboard := later, status := status } = .fault (.memoryOutOfRange s.console) :=
  andThen_of_fault (memWrite8_of_out (s := { s.flagsPushed with keyboard := later, status := status }) hbx b) _

/-- The console access of INT 6 with the host's byte at hand. -/
theorem awaitKeyboard_of_cons {s : State} {b : Byte} {later : List Byte} (hk : s.keyboard = b :: later) :
    awaitKeyboard s = finishInt6 b { s with keyboard := later } := by
  simp only [awaitKeyboard, hk]

/-- The console access of INT 6 with no byte yet. -/
theorem awaitKeyboard_of_nil {s : State} (hk : s.keyboard = []) :
    awaitKeyboard s = .next { s with status := .awaitingInput } := by
  simp only [awaitKeyboard, hk]

/-- Settles O48: the byte at hand makes INT 6 end within the step. -/
theorem int6StoresHostByte : Obligations.Int6StoresHostByte := by
  intro s b later hm hcan hk hs
  have hint6 : exec .int6 s = finishInt6 b { s.flagsPushed with keyboard := later } :=
    (exec_int6_of_can hcan).trans (awaitKeyboard_of_cons hk)
  refine ⟨fun hbx => ?stored, fun hbx => hint6.trans (finishInt6_of_out hbx b later s.status)⟩
  case stored =>
    have hnext := hint6.trans (finishInt6_of_in hm hcan hbx b later s.status)
    refine ⟨_, hnext, ?frame, int6Done_stored hm hcan b later, int6Done_flagsFrom s b later⟩
    case frame => rw [State.int6Done, ← hs]

/-- A step of a waiting INT 6 without a byte. -/
theorem step_awaiting_of_nil {s : State} (hs : s.status = .awaitingInput) (hk : s.keyboard = []) :
    step s = .next s := by
  rw [step_awaiting hs]
  simp only [resumeInt6, hk]

/-- A step of a waiting INT 6 with the host's byte there. -/
theorem step_awaiting_of_cons {s : State} {b : Byte} {later : List Byte} (hs : s.status = .awaitingInput)
    (hk : s.keyboard = b :: later) : step s = endOfInstruction (finishInt6 b { s with keyboard := later }) := by
  rw [step_awaiting hs]
  simp only [resumeInt6, hk]

/-- Settles O49: the waiting state is the one after the push, and the step that takes the byte ends the INT 6 there. -/
theorem int6WaitsForHost : Obligations.Int6WaitsForHost := by
  intro s hm hcan hk
  have hwaits : exec .int6 s = .next { s.flagsPushed with status := .awaitingInput } :=
    (exec_int6_of_can hcan).trans (awaitKeyboard_of_nil hk)
  have hresumes : ∀ (b : Byte) (later : List Byte),
      step { s.flagsPushed with status := .awaitingInput, keyboard := b :: later } =
        endOfInstruction (finishInt6 b { s.flagsPushed with keyboard := later, status := .awaitingInput }) :=
    fun _ _ => step_awaiting_of_cons rfl rfl
  refine ⟨_, hwaits, rfl, rfl, flagsPushed_pushed hm hcan, rfl, step_awaiting_of_nil rfl hk, fun b later =>
    ⟨fun hbx => ?stored, fun hbx => ?outside⟩⟩
  case stored =>
    refine ⟨(s.int6Done b later).drawInternal, ?step, rfl, int6Done_stored hm hcan b later,
      int6Done_flagsFrom s b later⟩
    case step => rw [hresumes, finishInt6_of_in hm hcan hbx, endOfInstruction, andThen_next]
  case outside => rw [hresumes, finishInt6_of_out hbx, endOfInstruction, andThen_fault]

/-! ### INT 7 (R250) -/

theorem andThen_assoc {α β γ : Type} (o : Result α) (k : α → Result β) (l : β → Result γ) :
    andThen (andThen o k) l = andThen o fun a => andThen (k a) l := by
  cases o <;> rfl

/-- Console output can be cut in two. -/
theorem printBytes_add (m n : Nat) (a : Word) (s : State) :
    printBytes (m + n) a s = andThen (printBytes m a s) (printBytes n (a + BitVec.ofNat 16 m)) := by
  induction m generalizing a s with
  | zero => simp [printBytes]
  | succ m ih =>
    have hnext : a + 1#16 + BitVec.ofNat 16 m = a + BitVec.ofNat 16 (m + 1) := by
      rw [BitVec.add_assoc, Nat.add_comm m, BitVec.ofNat_add]
    simp only [Nat.succ_add, printBytes, andThen_assoc, ih, hnext]

/-- Console output whose bytes all exist. -/
theorem printBytes_of_in {n : Nat} {a : Word} (s : State) (h : n = 0 ∨ a.toNat + n ≤ 0x4000) :
    printBytes n a s =
      .next { s with console := s.console ++ (List.range n).map fun k => s.mem.read (a.toNat + k) } :=
  printBytes_eq_next.2 ⟨h, rfl⟩

/-- Console output that runs off memory prints the bytes up to its top and faults at the next. -/
theorem printBytes_of_out {n : Nat} {a : Word} (s : State) (hn : n ≠ 0) (h : 0x4000 < a.toNat + n) :
    printBytes n a s = .fault (.memoryOutOfRange
      (s.console ++ (List.range (0x4000 - a.toNat)).map fun k => s.mem.read (a.toNat + k))) := by
  obtain ⟨rest, rfl⟩ : ∃ rest, n = (0x4000 - a.toNat) + (rest + 1) := ⟨n - (0x4000 - a.toNat) - 1, by omega⟩
  have htop : ¬ ByteIn (a + BitVec.ofNat 16 (0x4000 - a.toNat)) := by
    have := a.isLt
    simp [BitVec.toNat_add]; omega
  rw [printBytes_add, printBytes_of_in s (by omega), andThen_next]
  exact andThen_of_fault (memRead8_of_out htop) _

/-- The end of INT 7: it pops the FLAGS word it pushed, whatever the console. -/
theorem pop16_flagsPushed {s : State} (hm : s.mem.wf = true) (h : CanPush s) (out : List Byte) :
    ({ s.flagsPushed with console := out } : State).pop16 =
      .next (s.flags.toWord, { s.flagsPushed with console := out, sp := s.sp }) := by
  have hpop := pop16_of_can (s := { s.flagsPushed with console := out }) (flagsPushed_canPop hm h)
  have hsaved : s.flagsPushed.wordAt s.flagsPushed.sp = s.flags.toWord :=
    wordAt_eq_of_wordNatAt ((flagsPushed_pushed hm h).word.trans (toWord_toNat s.flags).symm)
  rw [flagsPushed_sp_add_two hm h] at hpop
  rw [← hsaved]
  exact hpop

/-- Settles O50: the output reads memory as the push left it, and the pop takes the pushed FLAGS word back. -/
theorem int7PrintsBytes : Obligations.Int7PrintsBytes := by
  intro s hm hcan
  have hint7 := exec_int7_of_can hcan
  rw [show (s.reg8 .al).toNat = s.ax.toNat % 256 from loByte_toNat s.ax] at hint7
  refine ⟨fun hin => ?prints, fun hn hout => ⟨_, exec_pushf_of_can hcan, ?faults⟩⟩
  case prints =>
    have hpushed := flagsPushed_pushed hm hcan
    simp only [printBytes_of_in s.flagsPushed hin, andThen_next, pop16_flagsPushed hm hcan, State.loadFlags,
      ofWord_toWord] at hint7
    exact ⟨_, hint7, rfl, rfl, hpushed.word, hpushed.others⟩
  case faults => exact hint7.trans (andThen_of_fault (printBytes_of_out s.flagsPushed hn hout) _)

end Sys2Proof.Machine
end

section
/-! The boundary and the devices' events (60_exceptions R270 to R294): the host's events by the bits they change, and
`PIC.update()` by its cases, from which what a boundary answers follows. -/

namespace Sys2Proof.Machine

/-! ### One bit of a byte -/

theorem bitMask_getLsbD (n : Fin 8) {k : Nat} (hk : k < 8) : (bitMask n).getLsbD k = decide (k = n) := by
  have hmask : ∀ n k : Fin 8, (bitMask n).getLsbD k = decide (k.val = n.val) := by decide
  exact hmask n ⟨k, hk⟩

theorem setBit_getLsbD (b : Byte) (n : Fin 8) {k : Nat} (hk : k < 8) :
    (setBit b n).getLsbD k = (b.getLsbD k || decide (k = n)) := by
  rw [setBit, BitVec.getLsbD_or, bitMask_getLsbD n hk]

theorem clearBit_getLsbD (b : Byte) (n : Fin 8) {k : Nat} (hk : k < 8) :
    (clearBit b n).getLsbD k = (b.getLsbD k && decide (k ≠ n)) := by
  rw [clearBit, BitVec.getLsbD_and, BitVec.getLsbD_not, bitMask_getLsbD n hk, decide_not]
  simp [hk]

/-- A bit that is set under a condition only. -/
theorem setBit_if_getLsbD (c : Prop) [Decidable c] (b : Byte) (n : Fin 8) {k : Nat} (hk : k < 8) :
    (if c then setBit b n else b).getLsbD k = (b.getLsbD k || (decide (k = n) && decide c)) := by
  by_cases hc : c
  · simp [hc, setBit_getLsbD b n hk]
  · simp [hc]

/-! ### Host events (R281 to R286) -/

/-- Settles O58: the three events are one bit of `IRR` set or cleared. -/
theorem requestsChangeOneBit : Obligations.RequestsChangeOneBit := fun s n =>
  ⟨⟨_, rfl, rfl, fun _ hk => setBit_getLsbD s.pic.irr n hk⟩,
    ⟨_, rfl, rfl, fun _ hk => clearBit_getLsbD s.pic.irr n hk⟩,
    ⟨_, rfl, rfl, fun _ hk => setBit_getLsbD s.pic.irr Config.f10Line hk⟩⟩

/-- A request that a device makes under a condition changes `IRR` only, and only under it (R281). -/
theorem request_if_eq (c : Prop) [Decidable c] (s : State) (n : Fin 8) :
    (if c then s.request n else s) =
      { s with pic := { s.pic with irr := if c then setBit s.pic.irr n else s.pic.irr } } := by
  by_cases hc : c
  · rw [if_pos hc, if_pos hc]; rfl
  · rw [if_neg hc, if_neg hc]

/-- The tick is the increment and a request under the comparison with the incremented count (R284). -/
theorem timerTick_eq (s : State) :
    s.timerTick = { s with
      timer := { s.timer with cont := s.timer.cont + 1#8 }
      pic := { s.pic with irr :=
        if s.timer.cont + 1#8 = s.timer.comp then setBit s.pic.irr s.params.timerLine else s.pic.irr } } :=
  request_if_eq _ { s with timer := { s.timer with cont := s.timer.cont + 1#8 } } s.params.timerLine

/-- Settles O56. -/
theorem timerTickCounts : Obligations.TimerTickCounts := by
  intro s
  have htick : s.hostEvent .clockTick = .next s.timerTick := rfl
  rw [timerTick_eq] at htick
  exact ⟨_, htick, BitVec.toNat_add _ _, rfl, fun k hk => setBit_if_getLsbD _ s.pic.irr s.params.timerLine hk, rfl⟩

/-- The printer's end is DATA on the console, BUSY cleared, and a request under IE (R285). -/
theorem printerDone_eq (s : State) :
    s.printerDone = { s with
      console := s.console ++ [s.hs.data]
      hs := { s.hs with state := clearBit s.hs.state 0 }
      pic := { s.pic with irr :=
        if s.hs.irqEnable = true then setBit s.pic.irr s.params.hsLine else s.pic.irr } } :=
  request_if_eq _ { s.consoleOut s.hs.data with hs := { s.hs with state := clearBit s.hs.state 0 } } s.params.hsLine

/-- Settles O57. -/
theorem printerDonePrints : Obligations.PrinterDonePrints := by
  intro s
  constructor
  case left =>
    intro hbusy
    have hdone : s.hostEvent .printerDone = .next s.printerDone := if_pos hbusy
    rw [printerDone_eq] at hdone
    refine ⟨_, hdone, rfl, rfl, fun k hk => clearBit_getLsbD s.hs.state 0 hk, fun k hk => ?_, rfl⟩
    rw [setBit_if_getLsbD _ s.pic.irr s.params.hsLine hk, Bool.decide_eq_true]
    rfl
  case right =>
    intro hidle
    exact if_neg (Bool.eq_false_iff.1 hidle)

/-! ### `PIC.update()` by its cases (R274 to R279) -/

/-- A line that is masked wherever it is pending is not eligible (R275 step 3). -/
theorem eligible_getLsbD_of_masked {p : Pic} {k : Nat} (hk : k < 8)
    (hmasked : p.irr.getLsbD k = true → p.imr.getLsbD k = true) : p.eligible.getLsbD k = false := by
  cases hirr : p.irr.getLsbD k
  case false => simp [Pic.eligible, hirr]
  case true => simp [Pic.eligible, hk, hmasked hirr]

/-- Where no bit is set the priority encoder gives no line (R277). -/
theorem lowestLine_eq_none {b : Byte} (h : ∀ k : Nat, k < 8 → b.getLsbD k = false) : lowestLine b = none := by
  cases hline : lowestLine b with
  | none => rfl
  | some n =>
    obtain ⟨hset, -⟩ := lowestLine_eq_some_iff.1 hline
    exact absurd hset (Bool.eq_false_iff.1 (h n n.isLt))

/-- An EOI takes the line out of service (R275 step 1). -/
theorem picUpdate_of_eoi {s : State} (hi : s.pic.isr ≠ 0#8) (he : s.pic.eoi = 0x20#8) :
    picUpdate s = .next (none, { s with pic.isr := 0#8, pic.eoi := 0#8 }) := if_pos ⟨hi, he⟩

/-- A line in service blocks every other line (R275 step 2, R276). -/
theorem picUpdate_of_inService {s : State} (hi : s.pic.isr ≠ 0#8) (he : s.pic.eoi ≠ 0x20#8) :
    picUpdate s = .next (none, s) :=
  (if_neg fun h => he h.2).trans (if_pos (.inl hi))

/-- With every pending line masked no line is selected (R275 step 3). -/
theorem picUpdate_of_masked {s : State} (hi : s.pic.isr = 0#8) (hf : s.flags.interrupt = true)
    (hmasked : ∀ k : Nat, k < 8 → s.pic.irr.getLsbD k = true → s.pic.imr.getLsbD k = true) :
    picUpdate s = .next (none, s) := by
  have hnone : lowestLine s.pic.eligible = none :=
    lowestLine_eq_none fun k hk => eligible_getLsbD_of_masked hk (hmasked k hk)
  simp only [picUpdate, hi, hf, hnone]
  rfl

/-- A selected line whose vector is reserved ends the run (R278). -/
theorem picUpdate_of_reserved {s : State} {n : Fin 8} (h : Selected s n)
    (hvec : s.pic.vec[n] ∈ s.params.reservedIds) : picUpdate s = .fault (.reservedInterrupt s.console) := by
  have hreserved : s.params.reservedIds.contains (s.pic.vec.get n) = true := List.contains_iff_mem.2 hvec
  simp only [picUpdate, h.idle, h.enabled, lowestLine_of_selected h, hreserved]
  rfl

/-- With no line in service the acknowledgement takes one request and puts that one line in service (R279). -/
theorem acknowledge_getLsbD {p : Pic} (hi : p.isr = 0#8) (n : Fin 8) {k : Nat} (hk : k < 8) :
    (p.acknowledge n).irr.getLsbD k = (p.irr.getLsbD k && decide (k ≠ n)) ∧
      (p.acknowledge n).isr.getLsbD k = decide (k = n) := by
  refine ⟨clearBit_getLsbD p.irr n hk, (setBit_getLsbD p.isr n hk).trans ?_⟩
  rw [hi, BitVec.getLsbD_zero, Bool.false_or]

/-! ### The boundary (R292, R294) -/

/-- Settles O53: the clauses are the cases of `PIC.update()`, and a boundary is the service of the state after its
events. -/
theorem picUpdateFollowsR275 : Obligations.PicUpdateFollowsR275 := by
  refine fun s => ⟨picUpdate_of_eoi, picUpdate_of_inService, picUpdate_of_disabled, picUpdate_of_masked,
    fun n hsel => ⟨picUpdate_of_reserved hsel, fun hvec => ?acknowledged⟩, fun u he => ?boundary⟩
  case acknowledged =>
    exact ⟨_, picUpdate_of_selected hsel hvec, rfl, rfl, rfl, fun _ hk => acknowledge_getLsbD hsel.idle n hk⟩
  case boundary =>
    rw [boundary_of_afterEvents he, serviceInterrupts]
    refine ⟨fun t hnone => ?_, fun id t hsome => ?_, fun r hfault => ?_⟩
    · rw [hnone, andThen_next]
    · rw [hsome, andThen_next]
    · rw [hfault, andThen_fault]

/-- With `IF = 0` or a line in service `PIC.update()` gives no vector, and only `ISR` and `EOI` can change (R275 steps 1
and 2). -/
theorem picUpdate_of_blocked {s : State} (h : s.flags.interrupt = false ∨ s.pic.isr ≠ 0#8) :
    ∃ isr eoi : Byte, picUpdate s = .next (none, { s with pic.isr := isr, pic.eoi := eoi }) := by
  by_cases hi : s.pic.isr = 0#8
  · exact ⟨_, _, picUpdate_of_disabled hi (h.resolve_right (not_not_intro hi))⟩
  · by_cases he : s.pic.eoi = 0x20#8
    · exact ⟨_, _, picUpdate_of_eoi hi he⟩
    · exact ⟨_, _, picUpdate_of_inService hi he⟩

/-- Settles O55. -/
theorem blockedBoundaryEntersNothing : Obligations.BlockedBoundaryEntersNothing := by
  intro s u he hblocked
  obtain ⟨isr, eoi, hupdate⟩ := picUpdate_of_blocked hblocked
  have hboundary := (boundary_of_afterEvents he).trans (serviceInterrupts_of_picUpdate_none hupdate)
  exact ⟨_, hboundary, rfl, rfl, rfl, rfl⟩

/-- The PIC's registers are no part of what the entry of a vector speaks of. -/
theorem EnteredVector.of_pic {s t : State} {p : Pic} {id : Byte} {ret : Word}
    (h : EnteredVector { s with pic := p } t id ret) : EnteredVector s t id ret where
  sp := h.sp
  registers := h.registers
  savedFlags := h.savedFlags
  savedIp := h.savedIp
  others := h.others
  flags := h.flags
  ip := h.ip

/-- The entry of a vector after a change of the PIC's registers: what it leaves, and its frame (R270, R279). -/
theorem enterInterrupt_entered_of_pic {s t : State} {p : Pic} {id : Byte} (hm : s.mem.wf = true)
    (h : ({ s with pic := p } : State).enterInterrupt id = .next t) :
    EnteredVector s t id s.ip ∧
      t = { s with sp := t.sp, ip := t.ip, flags := t.flags, mem := t.mem, pic := p } := by
  obtain ⟨hentered, houtside⟩ := enterInterrupt_entered (s := { s with pic := p }) hm h
  obtain ⟨hax, hbx, hcx, hdx⟩ := hentered.registers
  rw [SameOutside, hax, hbx, hcx, hdx] at houtside
  exact ⟨hentered.of_pic, houtside⟩

/-- Settles O54: the boundary acknowledges the line and enters its vector, and the step runs what stands there. -/
theorem hardwareInterruptEntry : Obligations.HardwareInterruptEntry := by
  intro s u n he hm hcan hsel hvec
  obtain ⟨t, hentry⟩ := enterInterrupt_completes (s := { u with pic := u.pic.acknowledge n }) hcan u.pic.vec[n]
  have hboundary : boundary s = .next t := (boundary_of_selected he hsel hvec).trans hentry
  obtain ⟨hentered, hframe⟩ := enterInterrupt_entered_of_pic hm hentry
  have hpic : t.pic = u.pic.acknowledge n := congrArg State.pic hframe
  rw [← hpic] at hframe
  refine ⟨t, hboundary, hentered, by rw [hpic]; rfl, by rw [hpic]; rfl, by rw [hpic]; rfl, fun k hk => ?lines, hframe,
    fun i rest hs _ hdecode => stepWith_of_decode (enc := .standard) hs hboundary hdecode⟩
  case lines => rw [hpic]; exact acknowledge_getLsbD hsel.idle n hk

end Sys2Proof.Machine
end

section
/-! The load (70_reset_and_hazards R301): a byte read after each of its four steps, and the loaded memory by their
order. -/

namespace Sys2Proof.Machine

/-! ### The initial content (R301 step 1) -/

theorem read_fill_below {m : Memory} (hm : m.wf = true) {a b : Nat} (h : b < a) (bs : List Byte) :
    (m.fill a bs).read b = m.read b := by
  induction bs generalizing m a with
  | nil => rfl
  | cons v bs ih =>
    unfold Memory.fill
    split
    next htop => rw [ih (write_wf hm htop v) (by omega), read_write hm, if_neg (by omega)]
    next => rfl

/-- The `k`-th address of a fill holds the `k`-th byte of the list; past the list's end it is untouched. -/
theorem read_fill {m : Memory} (hm : m.wf = true) {a k : Nat} (h : a + k < Config.memSize) (bs : List Byte) :
    (m.fill a bs).read (a + k) = bs[k]?.getD (m.read (a + k)) := by
  induction bs generalizing m a k with
  | nil => rfl
  | cons v bs ih =>
    have htop : a < Config.memSize := by omega
    have hwritten := write_wf hm htop v
    rw [Memory.fill, if_pos htop]
    cases k with
    | zero => rw [Nat.add_zero a, read_fill_below hwritten (Nat.lt_add_one a), read_write hm, if_pos rfl]; rfl
    | succ k =>
      have hshift : a + (k + 1) = a + 1 + k := by omega
      rw [hshift] at h ⊢
      rw [ih hwritten h, read_write hm, if_neg (by omega), List.getElem?_cons_succ]

theorem initialMemory_wf {policy : MemInit} {previous : Memory} (h : policy = .unchanged → previous.wf = true) :
    (initialMemory policy previous).wf = true := by
  cases policy with
  | clean => exact nil_wf
  | random bytes => exact fill_wf nil_wf 0 bytes
  | unchanged => exact h rfl

theorem read_initialMemory (policy : MemInit) (previous : Memory) {a : Nat} (ha : a < Config.memSize) :
    (initialMemory policy previous).read a = initialByte policy previous a := by
  cases policy with
  | clean => rfl
  | random bytes =>
    have hfill := read_fill nil_wf (a := 0) ((Nat.zero_add a).symm ▸ ha) bytes
    rwa [Nat.zero_add] at hfill
  | unchanged => rfl

/-! ### Images (R301 steps 2 and 3) -/

theorem lookup_eq_none_of_notMem {image : Image} {a : Fin 0x4000} (h : a ∉ image.map Prod.fst) :
    image.lookup a = none := by
  rw [List.lookup_eq_none_iff]
  intro c hc
  exact bne_iff_ne.2 fun heq => h (heq ▸ List.mem_map_of_mem hc)

/-- The image is written first to last, the lookup finds the first: they agree because no address is named twice. -/
theorem read_writeImage {m : Memory} (hm : m.wf = true) {image : Image} (hnodup : (image.map Prod.fst).Nodup)
    (a : Fin 0x4000) : (m.writeImage image).read a.val = (image.lookup a).getD (m.read a.val) := by
  induction image generalizing m with
  | nil => rfl
  | cons c image ih =>
    obtain ⟨k, v⟩ := c
    obtain ⟨hfresh, hrest⟩ := List.nodup_cons.1 hnodup
    have hcons : (m.writeImage ((k, v) :: image)).read a.val =
        (image.lookup a).getD (if a.val = k.val then v else m.read a.val) := by
      rw [← read_write hm]
      exact ih (write_wf hm k.isLt v) hrest
    by_cases hak : a = k
    · subst hak
      rw [hcons, lookup_eq_none_of_notMem hfresh, if_pos rfl, List.lookup_cons_self]; rfl
    · rw [hcons, if_neg (Fin.val_ne_of_ne hak), List.lookup_cons, beq_false_of_ne hak]

/-! ### Patches (R301 step 4) -/

/-- A patch is the write of its word at its vector's place in the table. -/
theorem writePatches_cons (m : Memory) (id : Byte) (w : Word) (later : Patches) :
    m.writePatches ((id, w) :: later) = (m.writeWord (4 * id.toNat) w).writePatches later := rfl

/-- The first patch shows where no later one reaches. -/
theorem patchedByte_cons_getD (id : Byte) (w : Word) (later : Patches) (a : Nat) (b : Byte) :
    (patchedByte ((id, w) :: later) a).getD b =
      (patchedByte later a).getD
        (if a = 4 * id.toNat + 1 then hiByte w else if a = 4 * id.toNat then loByte w else b) := by
  rw [patchedByte, ofNat_mod_eq_loByte, ofNat_div_eq_hiByte]
  cases patchedByte later a with
  | some _ => rfl
  | none =>
    rcases eq_or_ne a (4 * id.toNat) with rfl | hlow
    · simp
    · by_cases hhigh : a = 4 * id.toNat + 1 <;> simp [hlow, hhigh]

theorem read_writePatches {m : Memory} (hm : m.wf = true) (patches : Patches) (a : Nat) :
    (m.writePatches patches).read a = (patchedByte patches a).getD (m.read a) := by
  induction patches generalizing m with
  | nil => rfl
  | cons p later ih =>
    obtain ⟨id, w⟩ := p
    have htable : 4 * id.toNat + 1 < Config.memSize := by
      have := id.isLt
      simp only [Config.memSize]; omega
    rw [writePatches_cons, ih (writeWord_wf hm htable w), read_writeWord hm htable, patchedByte_cons_getD]

/-! ### The four steps -/

/-- Settles O3: the last step of the load that reaches a byte decides it. -/
theorem loadedMemoryHoldsImages : Obligations.LoadedMemoryHoldsImages := by
  intro policy previous code data patches hprevious hcode hdata
  have hinitial := initialMemory_wf hprevious
  have hwithData := writeImage_wf hinitial data
  have hwithCode := writeImage_wf hwithData code
  refine ⟨writePatches_wf hwithCode patches, fun a => ?_⟩
  rw [loadMemory, read_writePatches hwithCode, read_writeImage hwithData hcode, read_writeImage hinitial hdata,
    read_initialMemory policy previous a.isLt]

end Sys2Proof.Machine
end
